-- ==== Sys2Proof/Word.lean ====
section
/-! DEFINITION. The word types of the hardware and the two table levels (spec rules R6, R40, R41, R60). -/

namespace Sys2Proof

/-- A descriptor, a control register or a virtual address: 32 bits, numbered 31 down to 0 (R6, R40, R60). -/
abbrev Word := BitVec 32

/-- One byte of physical memory. -/
abbrev Byte := BitVec 8

/-- A physical address: 40 bits (R41). -/
abbrev PhysAddr := BitVec 40

/-- The level of the table a descriptor is read from. It is not encoded in the word: it is known from which table the word
was read (R60). -/
inductive Level where
  | first
  | second
deriving DecidableEq, Repr

end Sys2Proof
end

