-- ==== Sys2Proof/Config.lean ====
section
/-! DEFINITION. What an implementation fixes: the parameters of rule R4, as plain data that the state carries and nothing
changes, so that a statement about every state is a statement about every implementation (assumption log 6). Also the one
free value of the model, the choice among kept translations (rule R56, assumption log 12). -/

namespace Sys2Proof

/-- Parameter `L1_TYPE3_NO_PXN` (R66): what first-level bits[1:0] = 0b11 gives where PXN is not supported. -/
inductive Type3Treatment where
  | refuse
  | translationFault
deriving DecidableEq, Repr

/-- Parameter `TLB_MODEL` (R56): whether translations are kept and may be used again. -/
inductive TlbModel where
  | staticTables
  | nondeterministicCache
deriving DecidableEq, Repr

/-- The implementation parameters of rule R4. -/
structure Config where
  /-- `LPAE`: the implementation includes the Large Physical Address Extension. -/
  lpae : Bool
  /-- Whether an implementation without `LPAE` includes the optional PXN bit (R5). -/
  pxnOption : Bool
  /-- `SECURITY_EXT`: the implementation includes the Security Extensions. -/
  securityExt : Bool
  /-- `WALK_BIG_ENDIAN`: the byte order in which a descriptor is assembled (R47). -/
  walkBigEndian : Bool
  /-- `SBZ_IGNORED`: a 1 in a should-be-zero bit is ignored, not refused (R73). -/
  sbzIgnored : Bool
  /-- `L1_TYPE3_NO_PXN` (R66). -/
  l1Type3NoPxn : Type3Treatment
  /-- `TLB_MODEL` (R56). -/
  tlbModel : TlbModel
  /-- The two treatments rule R57 admits: `false` takes WF1 as a premise on the tables, `true` checks the sixteen entries. -/
  wf1Checked : Bool
deriving DecidableEq, Repr

/-- `PXN_SUPPORTED`: the optional bit, forced present by `LPAE` (R5). -/
def Config.pxnSupported (c : Config) : Bool := c.lpae || c.pxnOption

/-- The spec's defaults "for a launch configuration that wants none OPEN" (92_eei_decisions.md, last paragraph). -/
def Config.default : Config where
  lpae := false
  pxnOption := true
  securityExt := false
  walkBigEndian := false
  sbzIgnored := false
  l1Type3NoPxn := .refuse
  tlbModel := .staticTables
  wf1Checked := false

/-- FREE VALUE (R56, assumption log 12). At its n-th use, which of the kept records whose block contains the address answers
the request; a number past their count means that none does and the tables are walked. Nothing constrains it. -/
opaque Config.tlbChoice : Nat → Nat

end Sys2Proof
end

