-- ==== Sys2Proof/Syntax.lean ====
section
/-! DEFINITION. The seven descriptor types, with every field of their formats (spec rules R62 to R70, R77). The fields are the
arguments of the spec's own constructor functions (R77), and beside them the bits those write as zero (SBZ), so that no bit of
a word is lost. Fields whose bits are not adjacent are already assembled (R72): `ap` is AP[2:0], and the base of a
Supersection is PA[39:24]. -/

namespace Sys2Proof

/-- The fields of `L1_PAGE_TABLE` (R63). `pxn` is bit[2], whatever `PXN_SUPPORTED` says of it (R66); `sbz` is bit[4]. -/
structure PageTableDesc where
  base   : BitVec 22
  impdef : Bool
  domain : BitVec 4
  sbz    : Bool
  ns     : Bool
  pxn    : Bool
deriving DecidableEq, Repr

/-- The fields of `L1_SECTION` (R64). `pxn` is bit[0]. -/
structure SectionDesc where
  base   : BitVec 12
  ns     : Bool
  nG     : Bool
  S      : Bool
  ap     : BitVec 3
  tex    : BitVec 3
  impdef : Bool
  domain : BitVec 4
  xn     : Bool
  c      : Bool
  b      : Bool
  pxn    : Bool
deriving DecidableEq, Repr

/-- The fields of `L1_SUPERSECTION` (R65). `base` is PA[39:24]; there is no domain field. `pxn` is bit[0]. -/
structure SupersectionDesc where
  base   : BitVec 16
  ns     : Bool
  nG     : Bool
  S      : Bool
  ap     : BitVec 3
  tex    : BitVec 3
  impdef : Bool
  xn     : Bool
  c      : Bool
  b      : Bool
  pxn    : Bool
deriving DecidableEq, Repr

/-- The fields of `L2_LARGE_PAGE` (R69). `sbz` is bits[8:6]. -/
structure LargePageDesc where
  base : BitVec 16
  xn   : Bool
  tex  : BitVec 3
  nG   : Bool
  S    : Bool
  ap   : BitVec 3
  sbz  : BitVec 3
  c    : Bool
  b    : Bool
deriving DecidableEq, Repr

/-- The fields of `L2_SMALL_PAGE` (R70). -/
structure SmallPageDesc where
  base : BitVec 20
  nG   : Bool
  S    : Bool
  ap   : BitVec 3
  tex  : BitVec 3
  c    : Bool
  b    : Bool
  xn   : Bool
deriving DecidableEq, Repr

/-- The descriptor types, one constructor per row of the opcode table. `ign` is the 30 IGNORE bits of a Fault descriptor
(R62, R68), which no rule reads (R74). -/
inductive Instr where
  | l1Fault (ign : BitVec 30)
  | l1PageTable (d : PageTableDesc)
  | l1Section (d : SectionDesc)
  | l1Supersection (d : SupersectionDesc)
  | l2Fault (ign : BitVec 30)
  | l2LargePage (d : LargePageDesc)
  | l2SmallPage (d : SmallPageDesc)
deriving DecidableEq, Repr

/-- The table a descriptor type belongs to (R60). -/
def Instr.level : Instr → Level
  | .l1Fault _ => .first
  | .l1PageTable _ => .first
  | .l1Section _ => .first
  | .l1Supersection _ => .first
  | .l2Fault _ => .second
  | .l2LargePage _ => .second
  | .l2SmallPage _ => .second

end Sys2Proof
end

