-- ==== Sys2Proof/WellFormed.lean ====
section
/-! DEFINITION. Which descriptors an implementation can read from a table at all (spec rules R61, R66): where PXN is not
supported, a Section or a Supersection with bit[0] set is the reserved type and not a descriptor. Should-be-zero bits do not
enter: the type decode never reads them (R73). -/

namespace Sys2Proof

/-- The descriptor exists on the implementation `cfg` (R61, R66). -/
def Instr.wellFormed (cfg : Config) : Instr → Bool
  | .l1Fault _ => true
  | .l1PageTable _ => true
  | .l1Section d => cfg.pxnSupported || !d.pxn
  | .l1Supersection d => cfg.pxnSupported || !d.pxn
  | .l2Fault _ => true
  | .l2LargePage _ => true
  | .l2SmallPage _ => true

end Sys2Proof
end

