-- ==== Sys2Proof/Decode.lean ====
section
/-! DEFINITION. The decoder, total on any bytes, the encoder, and the decoder as the opcode table numbers its bits (spec rules
R60 to R77). -/

namespace Sys2Proof

/-- Why the decoder reads no descriptor. -/
inductive DecodeError where
  /-- A descriptor is exactly one 32-bit word (R60); the bytes given are not four. -/
  | notOneWord
  /-- The pseudo-type `L1_RESERVED`: first-level bits[1:0] = 0b11 where PXN is not supported (R61, R66). -/
  | l1Reserved
deriving DecidableEq, Repr

/-- The bit `w[i]` (R6). -/
def bitAt (w : Word) (i : Nat) : Bool := w.getLsbD i

/-- The field of `len` bits of `w` whose lowest bit is `lo`: `w[lo + len - 1 : lo]` (R6). -/
def fieldAt (w : Word) (lo len : Nat) : BitVec len := w.extractLsb' lo len

/-- The word that four bytes in memory hold, `b0` at the lowest address (R46). -/
def wordOfBytes (bigEndian : Bool) (b0 b1 b2 b3 : Byte) : Word :=
  if bigEndian then b0 ++ b1 ++ b2 ++ b3 else b3 ++ b2 ++ b1 ++ b0

/-- The four bytes of a word in the order memory holds them, the lowest address first (R46). -/
def bytesOfWord (bigEndian : Bool) (w : Word) : List Byte :=
  let little := [w.extractLsb' 0 8, w.extractLsb' 8 8, w.extractLsb' 16 8, w.extractLsb' 24 8]
  if bigEndian then little.reverse else little

/-- The fields of a Page table descriptor (R63). -/
def pageTableOfWord (w : Word) : PageTableDesc where
  base   := fieldAt w 10 22
  impdef := bitAt w 9
  domain := fieldAt w 5 4
  sbz    := bitAt w 4
  ns     := bitAt w 3
  pxn    := bitAt w 2

/-- The fields of a Section descriptor (R64, R72). -/
def sectionOfWord (w : Word) : SectionDesc where
  base   := fieldAt w 20 12
  ns     := bitAt w 19
  nG     := bitAt w 17
  S      := bitAt w 16
  ap     := fieldAt w 15 1 ++ fieldAt w 10 2
  tex    := fieldAt w 12 3
  impdef := bitAt w 9
  domain := fieldAt w 5 4
  xn     := bitAt w 4
  c      := bitAt w 3
  b      := bitAt w 2
  pxn    := bitAt w 0

/-- The fields of a Supersection descriptor (R65, R72): the extended base bits are out of order in the word. -/
def supersectionOfWord (w : Word) : SupersectionDesc where
  base   := fieldAt w 5 4 ++ fieldAt w 20 4 ++ fieldAt w 24 8
  ns     := bitAt w 19
  nG     := bitAt w 17
  S      := bitAt w 16
  ap     := fieldAt w 15 1 ++ fieldAt w 10 2
  tex    := fieldAt w 12 3
  impdef := bitAt w 9
  xn     := bitAt w 4
  c      := bitAt w 3
  b      := bitAt w 2
  pxn    := bitAt w 0

/-- The fields of a Large page descriptor (R69, R72). -/
def largePageOfWord (w : Word) : LargePageDesc where
  base := fieldAt w 16 16
  xn   := bitAt w 15
  tex  := fieldAt w 12 3
  nG   := bitAt w 11
  S    := bitAt w 10
  ap   := fieldAt w 9 1 ++ fieldAt w 4 2
  sbz  := fieldAt w 6 3
  c    := bitAt w 3
  b    := bitAt w 2

/-- The fields of a Small page descriptor (R70, R72; 90_conflicts.md C1: XN is bit[0] only, TEX bits[8:6] only). -/
def smallPageOfWord (w : Word) : SmallPageDesc where
  base := fieldAt w 12 20
  nG   := bitAt w 11
  S    := bitAt w 10
  ap   := fieldAt w 9 1 ++ fieldAt w 4 2
  tex  := fieldAt w 6 3
  c    := bitAt w 3
  b    := bitAt w 2
  xn   := bitAt w 0

/-- `DecodeL1` (R61, R66). -/
def decodeFirst (cfg : Config) (w : Word) : Except DecodeError Instr :=
  if bitAt w 1 then
    if bitAt w 0 && !cfg.pxnSupported then .error .l1Reserved
    else if bitAt w 18 then .ok (.l1Supersection (supersectionOfWord w))
    else .ok (.l1Section (sectionOfWord w))
  else if bitAt w 0 then .ok (.l1PageTable (pageTableOfWord w))
  else .ok (.l1Fault (fieldAt w 2 30))

/-- `DecodeL2` (R67): independent of the parameters. -/
def decodeSecond (w : Word) : Instr :=
  if bitAt w 1 then .l2SmallPage (smallPageOfWord w)
  else if bitAt w 0 then .l2LargePage (largePageOfWord w)
  else .l2Fault (fieldAt w 2 30)

/-- The descriptor a word of a table of level `lvl` is (R60). -/
def decodeWord (cfg : Config) (lvl : Level) (w : Word) : Except DecodeError Instr :=
  match lvl with
  | .first => decodeFirst cfg w
  | .second => .ok (decodeSecond w)

/-- The decoder on bytes as memory holds them, the lowest address first (R46, R60). -/
def decode (cfg : Config) (lvl : Level) (bytes : List Byte) : Except DecodeError Instr :=
  match bytes with
  | [b0, b1, b2, b3] => decodeWord cfg lvl (wordOfBytes cfg.walkBigEndian b0 b1 b2 b3)
  | _ => .error .notOneWord

/-- One bit, as a field to concatenate. -/
def oneBit (b : Bool) : BitVec 1 := BitVec.ofBool b

/-- The word of a descriptor: the spec's constructor functions (R77), written from the bit tables R62 to R70. -/
def encode : Instr → Word
  | .l1Fault ign => ign ++ 0#2
  | .l1PageTable d => d.base ++ oneBit d.impdef ++ d.domain ++ oneBit d.sbz ++ oneBit d.ns ++ oneBit d.pxn ++ 1#2
  | .l1Section d =>
      d.base ++ oneBit d.ns ++ 0#1 ++ oneBit d.nG ++ oneBit d.S ++ d.ap.extractLsb' 2 1 ++ d.tex ++ d.ap.extractLsb' 0 2
        ++ oneBit d.impdef ++ d.domain ++ oneBit d.xn ++ oneBit d.c ++ oneBit d.b ++ 1#1 ++ oneBit d.pxn
  | .l1Supersection d =>
      d.base.extractLsb' 0 8 ++ d.base.extractLsb' 8 4 ++ oneBit d.ns ++ 1#1 ++ oneBit d.nG ++ oneBit d.S
        ++ d.ap.extractLsb' 2 1 ++ d.tex ++ d.ap.extractLsb' 0 2 ++ oneBit d.impdef ++ d.base.extractLsb' 12 4
        ++ oneBit d.xn ++ oneBit d.c ++ oneBit d.b ++ 1#1 ++ oneBit d.pxn
  | .l2Fault ign => ign ++ 0#2
  | .l2LargePage d =>
      d.base ++ oneBit d.xn ++ d.tex ++ oneBit d.nG ++ oneBit d.S ++ d.ap.extractLsb' 2 1 ++ d.sbz ++ d.ap.extractLsb' 0 2
        ++ oneBit d.c ++ oneBit d.b ++ 1#2
  | .l2SmallPage d =>
      d.base ++ oneBit d.nG ++ oneBit d.S ++ d.ap.extractLsb' 2 1 ++ d.tex ++ d.ap.extractLsb' 0 2
        ++ oneBit d.c ++ oneBit d.b ++ 1#1 ++ oneBit d.xn

/-- The instruction the decoder reads from the `nbits` low bits of `w`, laid out as the hardware stores them. The level of a
word is not in the word (R60), and the first word a translation reads is of the first level, so it is read there (assumption
log 5). -/
def decodeTableWord (nbits w : Nat) : Option Instr :=
  (decode Config.default .first
    (bytesOfWord Config.default.walkBigEndian (BitVec.ofNat 32 (w % 2 ^ nbits)))).toOption

end Sys2Proof
end

