-- ==== Sys2Proof/Machine/State.lean ====
section
/-! DEFINITION. The state of the translation hardware as plain data, the answer of a translation, the reasons to stop, and the
state after reset (spec rules R8, R10 to R25, R48, R170, R177, R186). -/

namespace Sys2Proof.Machine

/-- The kind of access a request makes (R21). -/
inductive AccessKind where
  | read
  | write
  | execute
deriving DecidableEq, Repr

/-- The privilege level of a request (R21, R185). -/
inductive PrivLevel where
  | pl0
  | pl1
  | pl2
deriving DecidableEq, Repr

/-- What the requester presents (R21). -/
structure Request where
  va     : Word
  kind   : AccessKind
  pl     : PrivLevel
  secure : Bool
deriving DecidableEq, Repr

/-- One set of the control registers S1 to S5 (R10 to R16). Every bit is stored; rules read AFE of SCTLR, N of TTBCR, the base
fields of TTBR0 and TTBR1, and all of DACR. -/
structure ControlRegs where
  sctlr : Word
  ttbr0 : Word
  ttbr1 : Word
  ttbcr : Word
  dacr  : Word
deriving DecidableEq, Repr

/-- Names of the control registers, for the software that writes them (R10, D10). -/
inductive ControlReg where
  | sctlr
  | ttbr0
  | ttbr1
  | ttbcr
  | dacr
deriving DecidableEq, Repr

/-- The four sizes of block (R43, R48). -/
inductive BlockSize where
  | supersection
  | sectionBlock
  | largePage
  | smallPage
deriving DecidableEq, Repr

/-- The attribute record of an `Ok` (R48). TEX, C, B, S, nG and bit[9] are returned uninterpreted (R75, R100, R113). -/
structure Attrs where
  size   : BlockSize
  level  : Level
  domain : BitVec 4
  ap     : BitVec 3
  xn     : Bool
  pxn    : Bool
  nG     : Bool
  S      : Bool
  tex    : BitVec 3
  c      : Bool
  b      : Bool
  impdef : Bool
deriving DecidableEq, Repr

/-- The leaf record: what a completed walk yields before any check (R48). `ns` is the descriptor's NS bit (R106). -/
structure Leaf where
  pa    : PhysAddr
  ns    : Bool
  attrs : Attrs
deriving DecidableEq, Repr

/-- The closed list of fault kinds a translation raises (R170). -/
inductive FaultKind where
  | translation
  | accessFlag
  | domain
  | permission
  | externalAbortOnWalk
deriving DecidableEq, Repr

/-- What the hardware answers to the requester (R8, R177): the access is permitted, at physical address `pa` of the address
map `ns` (false: Secure, true: Non-secure; R42), or a fault is reported, with its level and the domain where it is known. -/
inductive Response where
  | ok (pa : PhysAddr) (ns : Bool) (attrs : Attrs)
  | fault (kind : FaultKind) (level : Level) (domain : Option (BitVec 4))
deriving DecidableEq, Repr

/-- The reasons of `Unpredictable(reason)`, the complete list (R57, R66, R76). -/
inductive Unpredictable where
  /-- First-level bits[1:0] = 0b11 where PXN is not supported and the parameter says refuse (R66). Safe. -/
  | l1Type0b11WithoutPxn
  /-- A should-be-zero bit of a descriptor used for a mapping is 1 and the parameter does not ignore it (R73). Safe. -/
  | sbzNotZero
  /-- A Supersection or Large page descriptor is not repeated in its sixteen slots, where WF1 is checked (R57). Safe. -/
  | repetition
  /-- The DACR field of the leaf's domain is 0b10 (R154). Safe. -/
  | dacrField0b10
  /-- AP[2:0] = 0b100 in the AP[2:0] model, in a Client domain (R142). Safe. -/
  | ap0b100
deriving DecidableEq, Repr

/-- The three results of one translation, kept apart (R8): the hardware answers `Ok` or `Fault`, or the result is
`Unpredictable(reason)`, which is a refusal. -/
inductive Translation where
  | responds (r : Response)
  | unpredictable (why : Unpredictable)
deriving DecidableEq, Repr

/-- Whether a translation is in progress, and which level's descriptor the next step reads (R49). -/
inductive Walk where
  | idle
  | first
  | second
deriving DecidableEq, Repr

/-- A kept translation (R20, R56): the base VA of its block and the leaf record for that base. The domain NUMBER is in the leaf;
no DACR setting is kept (R20). -/
structure TlbEntry where
  vaBase : Word
  leaf   : Leaf
deriving DecidableEq, Repr

/-- The contents of one physical address map: the listed bytes, addresses strictly rising. An unlisted address gives no data
(R175, assumption log 3). -/
abbrev Memory := List Host.Cell

/-- The state of the machine. -/
structure State where
  /-- The implementation's parameters (R4); nothing changes them. -/
  cfg : Config
  /-- The control registers for requests from Secure state (R10, R186). -/
  regsS : ControlRegs
  /-- The control registers for requests from Non-secure state (R10, R186). -/
  regsNS : ControlRegs
  /-- The Secure physical address map (R19, R42). -/
  memS : Memory
  /-- The Non-secure physical address map (R19, R42). -/
  memNS : Memory
  /-- The kept translations (R20, R56). -/
  tlb : List TlbEntry
  /-- The request (R21): the one in progress, or the one `result` answers. -/
  req : Request
  /-- The translation in progress (R49). -/
  walk : Walk
  /-- The Page table descriptor of the walk in progress: what R81 hands down to the second level (R93). -/
  parent : PageTableDesc
  /-- The answer to `req`, once there is one (R8, R177). -/
  result : Option Response
  /-- MODEL's own: how many times the free choice among kept translations has been made (assumption log 12). -/
  freeCount : Nat
deriving DecidableEq, Repr

/-- The reasons for which the machine would stop. There is none: "No point is treated as *stuck*: the hardware in scope has no
run state that could stop" (93_implementation_defined.md). Every fault of R170 is an answer in a next state. -/
inductive Fault where
deriving DecidableEq, Repr

/-- Why a step has no next state. -/
inductive Refusal where
  /-- No meaning for the instruction. No arm of this model raises it. Safe. -/
  | notModelled (mnemonic : String)
  /-- The spec's `Unpredictable(reason)` (R8): raised by the meanings of the four mapping descriptors, by the answer from a kept
  translation, and by the step on the reserved first-level type. Safe: no value and no successor is asserted. -/
  | unpredictable (why : Unpredictable)
deriving DecidableEq, Repr

/-- What a step of this machine answers. -/
abbrev StepResult := Host.Outcome State Fault Refusal

/-- Control registers at the values named in assumption log 1: the spec leaves all of them unspecified (R23). -/
def ControlRegs.reset : ControlRegs where
  sctlr := 0
  ttbr0 := 0
  ttbr1 := 0
  ttbcr := 0
  dacr  := 0

/-- The machine right after reset. The spec states no reset value of anything (R23, R200): the parameters are the spec's
defaults (assumption log 6), the registers are those of assumption log 1, nothing is in memory or kept, and no request has been
presented (assumption logs 2, 3, 4, 12). -/
def State.reset : State where
  cfg := Config.default
  regsS := ControlRegs.reset
  regsNS := ControlRegs.reset
  memS := []
  memNS := []
  tlb := []
  req := { va := 0, kind := .read, pl := .pl0, secure := true }
  walk := .idle
  parent := { base := 0, impdef := false, domain := 0, sbz := false, ns := false, pxn := false }
  result := none
  freeCount := 0

end Sys2Proof.Machine
end

