-- ==== Sys2Proof/Machine/Operands.lean ====
section
/-! DEFINITION. What a descriptor and a request are combined into: the address of a descriptor (spec rules R130 to R134, R45), and
the leaf record of each of the four mapping descriptors (R43, R48, R82, R83, R91 to R93). -/

namespace Sys2Proof.Machine

/-- `TTBCR.N`, 0 to 7 (R15). -/
def ttbcrN (r : ControlRegs) : Nat := (fieldAt r.ttbcr 0 3).toNat

/-- `w` with its bits below `k` cleared: `w[31:k]` in place. -/
def clearBelow (w : Word) (k : Nat) : Word := (w >>> k) <<< k

/-- `UsesTTBR0` (R131): N is 0, or the N top bits of the address are all zero. -/
def usesTTBR0 (r : ControlRegs) (va : Word) : Bool :=
  ttbcrN r == 0 || va >>> (32 - ttbcrN r) == 0

/-- The first-level index: `va[31-N : 20]` through TTBR0, `va[31:20]` through TTBR1 (R132). -/
def l1Index (r : ControlRegs) (va : Word) : Word :=
  if usesTTBR0 r va then ((va <<< ttbcrN r) >>> ttbcrN r) >>> 20 else va >>> 20

/-- The base of the first-level table: `TTBR0[31 : 14-N]` or `TTBR1[31:14]`; the bits below do not enter (R13, R14, R133). -/
def l1TableBase (r : ControlRegs) (va : Word) : Word :=
  if usesTTBR0 r va then clearBelow r.ttbr0 (14 - ttbcrN r) else clearBelow r.ttbr1 14

/-- `L1DescAddr` (R133): base, index and 0b00, concatenated. -/
def l1DescAddr (r : ControlRegs) (va : Word) : Word := l1TableBase r va ||| (l1Index r va <<< 2)

/-- The address of the second-level descriptor: `d1[31:10] : va[19:12] : 0b00` (R45, R81). -/
def l2DescAddr (p : PageTableDesc) (va : Word) : Word := p.base ++ fieldAt va 12 8 ++ 0#2

/-- The number of low VA bits that pass through a block of the size unchanged (R43). -/
def blockBits : BlockSize → Nat
  | .supersection => 24
  | .sectionBlock => 20
  | .largePage => 16
  | .smallPage => 12

/-- The `pxn` of a leaf: 0 wherever PXN is not supported (R66, R103). -/
def leafPxn (cfg : Config) (bit : Bool) : Bool := cfg.pxnSupported && bit

/-- `LeafOfSection` (R82). -/
def leafOfSection (cfg : Config) (d : SectionDesc) (va : Word) : Leaf where
  pa := (d.base ++ fieldAt va 0 20).setWidth 40
  ns := d.ns
  attrs :=
    { size := .sectionBlock, level := .first, domain := d.domain, ap := d.ap, xn := d.xn, pxn := leafPxn cfg d.pxn,
      nG := d.nG, S := d.S, tex := d.tex, c := d.c, b := d.b, impdef := d.impdef }

/-- `LeafOfSupersection` (R83): domain 0 whatever bits[8:5] hold (R109). -/
def leafOfSupersection (cfg : Config) (d : SupersectionDesc) (va : Word) : Leaf where
  pa := d.base ++ fieldAt va 0 24
  ns := d.ns
  attrs :=
    { size := .supersection, level := .first, domain := 0, ap := d.ap, xn := d.xn, pxn := leafPxn cfg d.pxn,
      nG := d.nG, S := d.S, tex := d.tex, c := d.c, b := d.b, impdef := d.impdef }

/-- `LeafOfLargePage` (R91): NS, domain, PXN and bit[9] from the parent (R93). -/
def leafOfLargePage (cfg : Config) (p : PageTableDesc) (d : LargePageDesc) (va : Word) : Leaf where
  pa := (d.base ++ fieldAt va 0 16).setWidth 40
  ns := p.ns
  attrs :=
    { size := .largePage, level := .second, domain := p.domain, ap := d.ap, xn := d.xn, pxn := leafPxn cfg p.pxn,
      nG := d.nG, S := d.S, tex := d.tex, c := d.c, b := d.b, impdef := p.impdef }

/-- `LeafOfSmallPage` (R92): NS, domain, PXN and bit[9] from the parent (R93). -/
def leafOfSmallPage (cfg : Config) (p : PageTableDesc) (d : SmallPageDesc) (va : Word) : Leaf where
  pa := (d.base ++ fieldAt va 0 12).setWidth 40
  ns := p.ns
  attrs :=
    { size := .smallPage, level := .second, domain := p.domain, ap := d.ap, xn := d.xn, pxn := leafPxn cfg p.pxn,
      nG := d.nG, S := d.S, tex := d.tex, c := d.c, b := d.b, impdef := p.impdef }

/-- `OutNS` (R108): the address-map bit of the result. -/
def outNS (nsBit secure : Bool) : Bool := if secure then nsBit else true

/-- `privileged(pl)`: every level but PL0 (R21, 90_conflicts.md C4). -/
def privileged : PrivLevel → Bool
  | .pl0 => false
  | .pl1 => true
  | .pl2 => true

end Sys2Proof.Machine
end

