-- ==== Sys2Proof/Machine/Flags.lean ====
section
/-! DEFINITION. The checks a leaf record goes through, in their order: the Access flag (spec rule R111), the domain (R152 to R154),
the permissions in both access models and the execute-never bits (R105, R140 to R145). The hardware has no condition flags
(R22). -/

namespace Sys2Proof.Machine

/-- `SCTLR.AFE`, bit[29] (R12). -/
def sctlrAfe (r : ControlRegs) : Bool := bitAt r.sctlr 29

/-- `DACR.D(n)`, bits[2n+1 : 2n] (R16, R152). -/
def dacrField (r : ControlRegs) (n : BitVec 4) : BitVec 2 := fieldAt r.dacr (2 * n.toNat) 2

/-- The four settings of a domain (R17, R153). -/
inductive DomainSetting where
  | noAccess
  | client
  | reserved
  | manager
deriving DecidableEq, Repr

/-- `CheckDomain` (R154). -/
def checkDomain (r : ControlRegs) (n : BitVec 4) : DomainSetting :=
  if dacrField r n = 0b00#2 then .noAccess
  else if dacrField r n = 0b01#2 then .client
  else if dacrField r n = 0b10#2 then .reserved
  else .manager

/-- What the AP bits permit at one privilege. -/
structure Rights where
  read  : Bool
  write : Bool
deriving DecidableEq, Repr

/-- The AP bits the permission table is read with: AP[2:1] : 0b1 in the AP[2:1] model, AP[2:0] otherwise (R143). -/
def effectiveAp (afe : Bool) (ap : BitVec 3) : BitVec 3 := if afe then ap ||| 0b001#3 else ap

/-- `Perms` (R143), both models (R141, R142); `none` is the Reserved value 0b100. -/
def perms (afe : Bool) (ap : BitVec 3) (priv : Bool) : Option Rights :=
  match (effectiveAp afe ap).toNat with
  | 0 => some { read := false, write := false }
  | 1 => some { read := priv, write := priv }
  | 2 => some { read := true, write := priv }
  | 3 => some { read := true, write := true }
  | 4 => none
  | 5 => some { read := priv, write := false }
  | _ => some { read := true, write := false }

/-- `ExecNever` (R105). -/
def execNever (a : Attrs) (pl : PrivLevel) : Bool := a.xn || (a.pxn && privileged pl)

/-- What the permission check answers (R144). -/
inductive PermissionVerdict where
  | permitted
  | denied
  | reserved
deriving DecidableEq, Repr

/-- `CheckPermission` (R144), made in a Client domain only. -/
def checkPermission (r : ControlRegs) (a : Attrs) (kind : AccessKind) (pl : PrivLevel) : PermissionVerdict :=
  match perms (sctlrAfe r) a.ap (privileged pl) with
  | none => .reserved
  | some rights =>
    let denied :=
      match kind with
      | .read => !rights.read
      | .write => !rights.write
      | .execute => !rights.read || execNever a pl
    if denied then .denied else .permitted

/-- `CheckAccessFlag` (R111): whether the Access flag fault is raised. -/
def accessFlagClear (r : ControlRegs) (a : Attrs) : Bool := sctlrAfe r && !a.ap.getLsbD 0

/-- The `Ok` of a leaf (R49 step 6). -/
def okResponse (secure : Bool) (l : Leaf) : Response := .ok l.pa (outNS l.ns secure) l.attrs

/-- Steps 4 to 6 of `Translate` (R49, R180): Access flag, domain, permission, result. -/
def checkLeaf (r : ControlRegs) (req : Request) (secure : Bool) (l : Leaf) : Translation :=
  if accessFlagClear r l.attrs then .responds (.fault .accessFlag l.attrs.level (some l.attrs.domain))
  else
    match checkDomain r l.attrs.domain with
    | .noAccess => .responds (.fault .domain l.attrs.level (some l.attrs.domain))
    | .reserved => .unpredictable .dacrField0b10
    | .manager => .responds (okResponse secure l)
    | .client =>
      match checkPermission r l.attrs req.kind req.pl with
      | .reserved => .unpredictable .ap0b100
      | .denied => .responds (.fault .permission l.attrs.level (some l.attrs.domain))
      | .permitted => .responds (okResponse secure l)

end Sys2Proof.Machine
end

