-- ==== Sys2Proof/Machine/Ops.lean ====
section
/-! DEFINITION. The named operations over memory and state: the table-walk read (spec rule R46), fetching a descriptor, answering
the requester and raising a fault (R177, R181), keeping a translation and answering from a kept one (R20, R56), and what the
outside world does between translations (R21, R24). There is no return from a fault: nothing is saved and nothing restored
(R182). -/

namespace Sys2Proof.Machine

/-- The byte an address map holds; `none` where it gives no data (R175). -/
def Memory.read (m : Memory) (a : Nat) : Option Byte :=
  match m with
  | [] => none
  | (b, v) :: rest => if a = b then some v else Memory.read rest a

/-- Memory with one byte written; the addresses stay strictly rising. -/
def Memory.write (m : Memory) (a : Nat) (v : Byte) : Memory :=
  match m with
  | [] => [(a, v)]
  | (b, u) :: rest =>
    if a < b then (a, v) :: (b, u) :: rest
    else if a = b then (a, v) :: rest
    else (b, u) :: Memory.write rest a v

/-- Bytes written at consecutive addresses from `a` on; addresses are 40 bits and wrap. -/
def Memory.writeBytes (m : Memory) (a : PhysAddr) (bs : List Byte) : Memory :=
  match bs with
  | [] => m
  | v :: rest => Memory.writeBytes (Memory.write m a.toNat v) (a + 1) rest

/-- The canonical form: addresses strictly rising, all inside the 40-bit space (R41). -/
abbrev Memory.wf (m : Memory) : Prop :=
  m.Pairwise (fun x y => x.1 < y.1) ∧ ∀ x ∈ m, x.1 < 2 ^ 40

/-- The security state the translation is made for: fixed to Secure without the Security Extensions (R21). -/
def State.secure (s : State) : Bool := !s.cfg.securityExt || s.req.secure

/-- The control registers that apply to the request's security state (R186). -/
def State.regs (s : State) : ControlRegs := if s.secure then s.regsS else s.regsNS

/-- The address map a table walk reads (R46). -/
def State.walkMem (s : State) : Memory := if s.secure then s.memS else s.memNS

/-- `WalkRead` (R46): the word at a 32-bit physical address; `none` where the memory gives no data (R175). -/
def State.walkRead (s : State) (a : Word) : Option Word :=
  match s.walkMem.read a.toNat, s.walkMem.read (a.toNat + 1), s.walkMem.read (a.toNat + 2), s.walkMem.read (a.toNat + 3) with
  | some b0, some b1, some b2, some b3 => some (wordOfBytes s.cfg.walkBigEndian b0 b1 b2 b3)
  | _, _, _, _ => none

/-- The address of the descriptor the next step reads (R49): the first level's, or the second level's once a Page table
descriptor has been read. -/
def State.fetchAddr (s : State) : Word :=
  match s.walk with
  | .second => l2DescAddr s.parent s.req.va
  | .first => l1DescAddr s.regs s.req.va
  | .idle => l1DescAddr s.regs s.req.va

/-- The descriptor word the next step reads. -/
def State.fetchWord (s : State) : Option Word := s.walkRead s.fetchAddr

/-- The translation ends and the requester has its answer; nothing else changes (R181). -/
def State.answer (s : State) (r : Response) : State := { s with result := some r, walk := .idle }

/-- Taking an exception: `raise <Fault>` (R7, R177, R181). The fault is the answer to the request; no state of rule R10
changes, no register is saved and no handler is entered. -/
def State.raise (s : State) (kind : FaultKind) (level : Level) (domain : Option (BitVec 4)) : StepResult :=
  .next (s.answer (.fault kind level domain))

/-- The translation ends with one of its three results (R8). -/
def State.conclude (s : State) (t : Translation) : StepResult :=
  match t with
  | .responds r => .next (s.answer r)
  | .unpredictable why => .refused (.unpredictable why)

/-- The reserved first-level type (R66): by parameter, a refusal or a Translation fault at level 1. -/
def State.reservedType (s : State) : StepResult :=
  match s.cfg.l1Type3NoPxn with
  | .refuse => .refused (.unpredictable .l1Type0b11WithoutPxn)
  | .translationFault => s.raise .translation .first none

/-- Kept record for a leaf that the walk of `va` produced: its block's base, and the leaf for that base (R56). -/
def tlbEntryOf (va : Word) (l : Leaf) : TlbEntry where
  vaBase := clearBelow va (blockBits l.attrs.size)
  leaf := { l with pa := (l.pa >>> blockBits l.attrs.size) <<< blockBits l.attrs.size }

/-- The VA block of the record contains `va` (R56). -/
def TlbEntry.covers (e : TlbEntry) (va : Word) : Bool := e.vaBase == clearBelow va (blockBits e.leaf.attrs.size)

/-- The leaf that the record gives for `va`: the low bits of the address pass through (R43). -/
def TlbEntry.leafFor (e : TlbEntry) (va : Word) : Leaf :=
  { e.leaf with
    pa := ((e.leaf.pa >>> blockBits e.leaf.attrs.size) <<< blockBits e.leaf.attrs.size)
      ||| (va.setWidth (blockBits e.leaf.attrs.size)).setWidth 40 }

/-- The leaf is kept, where the implementation keeps translations (R20, R56); a set holds no record twice. -/
def State.keep (s : State) (l : Leaf) : State :=
  match s.cfg.tlbModel with
  | .staticTables => s
  | .nondeterministicCache =>
    if tlbEntryOf s.req.va l ∈ s.tlb then s else { s with tlb := tlbEntryOf s.req.va l :: s.tlb }

/-- The kept record, if any, that answers the request in place of the walk: a free choice among those whose block contains the
address (R56). -/
def State.tlbPick (s : State) : Option TlbEntry :=
  match s.cfg.tlbModel with
  | .staticTables => none
  | .nondeterministicCache => (s.tlb.filter (fun e => e.covers s.req.va))[Config.tlbChoice s.freeCount]?

/-- The free choice has been made once more. -/
def State.countChoice (s : State) : State :=
  match s.cfg.tlbModel with
  | .staticTables => s
  | .nondeterministicCache => { s with freeCount := s.freeCount + 1 }

/-- Steps 4 to 6 of `Translate` on a leaf, against the current registers (R49, R56). -/
def State.checked (s : State) (l : Leaf) : Translation := checkLeaf s.regs s.req s.secure l

/-- A leaf that the walk produced and that passed step 3: it is kept, checked, and the translation ends (R49). -/
def State.useLeaf (s : State) (l : Leaf) : StepResult := (s.keep l).conclude (s.checked l)

/-- The answer from a kept record: steps 4 to 6 run afresh, in place of steps 1 to 3 (R56). -/
def State.useKept (s : State) (e : TlbEntry) : StepResult := s.conclude (s.checked (e.leafFor s.req.va))

/-- A should-be-zero bit of the Page table descriptor is 1 and not ignored: bit[4], and bit[2] where PXN is not supported
(R66, R73). -/
def pageTableSbzBad (cfg : Config) (p : PageTableDesc) : Bool :=
  !cfg.sbzIgnored && (p.sbz || (!cfg.pxnSupported && p.pxn))

/-- A should-be-zero bit of the Large page descriptor, bits[8:6], is 1 and not ignored (R73). -/
def largePageSbzBad (cfg : Config) (d : LargePageDesc) : Bool := !cfg.sbzIgnored && d.sbz != 0#3

/-- The addresses of the sixteen slots of the aligned group that holds the descriptor at `a` (R57). -/
def groupSlots (a : Word) : List Word := (List.range 16).map fun k => clearBelow a 6 ||| BitVec.ofNat 32 (4 * k)

/-- Rule R57 is checked and the descriptor read at `a` is not present, identical, at all sixteen slots. -/
def State.repetitionBad (s : State) (a w : Word) : Bool :=
  s.cfg.wf1Checked && !(groupSlots a).all fun x => s.walkRead x == some w

/-- The requester presents a request: the next step reads its first-level descriptor (R21, R49). DESIGN CHOICE, assumption log 27:
a request presented while a translation is in progress abandons that translation, which is never answered; the spec is silent. -/
def State.present (s : State) (req : Request) : State := { s with req := req, walk := .first, result := none }

/-- One register of a set written. -/
def ControlRegs.write (r : ControlRegs) (name : ControlReg) (v : Word) : ControlRegs :=
  match name with
  | .sctlr => { r with sctlr := v }
  | .ttbr0 => { r with ttbr0 := v }
  | .ttbr1 => { r with ttbr1 := v }
  | .ttbcr => { r with ttbcr := v }
  | .dacr => { r with dacr := v }

/-- Software, outside the machine, writes a control register of one security state, to take effect for the next translation (R24,
D10); every bit is stored (R17). A write between the two steps of one translation is assumption log 27's. -/
def State.writeReg (s : State) (secure : Bool) (name : ControlReg) (v : Word) : State :=
  if secure then { s with regsS := s.regsS.write name v } else { s with regsNS := s.regsNS.write name v }

/-- Software, outside the machine, stores a descriptor word in one address map, in the walk's byte order (R19, R46). DESIGN CHOICE,
assumption log 26: every walk read from then on sees the new word; R53 would admit an older one, and R54 gives no premise. -/
def State.storeWord (s : State) (secure : Bool) (a : PhysAddr) (w : Word) : State :=
  if secure then { s with memS := Memory.writeBytes s.memS a (bytesOfWord s.cfg.walkBigEndian w) }
  else { s with memNS := Memory.writeBytes s.memNS a (bytesOfWord s.cfg.walkBigEndian w) }

/-- A translation in progress: the one there is, or else one of the request the machine holds, with nothing kept, so that the
next step reads a descriptor. -/
def State.inProgress (s : State) : State :=
  match s.walk with
  | .idle => { s.present s.req with tlb := [] }
  | .first => { s with tlb := [] }
  | .second => s

end Sys2Proof.Machine
end

