-- ==== Sys2Proof/Machine/FirstLevel.lean ====
section
/-! DEFINITION. The meanings of the four first-level descriptors (spec rules R80 to R84), run for the request the state holds. -/

namespace Sys2Proof.Machine

/-- `L1_FAULT` (R80): always a Translation fault at level 1, without a domain; the DACR is not read. -/
def execL1Fault (_ign : BitVec 30) (s : State) : StepResult := s.raise .translation .first none

/-- `L1_PAGE_TABLE` (R81): the walk goes on with the second-level descriptor; the descriptor itself permits or denies nothing,
and its should-be-zero bits matter only once a mapping is used (R73). -/
def execL1PageTable (d : PageTableDesc) (s : State) : StepResult := .next { s with parent := d, walk := .second }

/-- `L1_SECTION` (R82). -/
def execL1Section (d : SectionDesc) (s : State) : StepResult := s.useLeaf (leafOfSection s.cfg d s.req.va)

/-- `L1_SUPERSECTION` (R83), with the repetition of R57 where it is checked. -/
def execL1Supersection (d : SupersectionDesc) (s : State) : StepResult :=
  if s.repetitionBad (l1DescAddr s.regs s.req.va) (encode (.l1Supersection d)) then .refused (.unpredictable .repetition)
  else s.useLeaf (leafOfSupersection s.cfg d s.req.va)

end Sys2Proof.Machine
end

