-- ==== Sys2Proof/Machine/SecondLevel.lean ====
section
/-! DEFINITION. The meanings of the three second-level descriptors (spec rules R90 to R93), run for the request and the parent Page
table descriptor that the state holds. -/

namespace Sys2Proof.Machine

/-- `L2_FAULT` (R90): always a Translation fault at level 2, with the parent's domain; no should-be-zero bit is checked. -/
def execL2Fault (_ign : BitVec 30) (s : State) : StepResult := s.raise .translation .second (some s.parent.domain)

/-- `L2_LARGE_PAGE` (R91): should-be-zero bits of both descriptors (R73), the repetition of R57 where it is checked, then the
checks. -/
def execL2LargePage (d : LargePageDesc) (s : State) : StepResult :=
  if pageTableSbzBad s.cfg s.parent || largePageSbzBad s.cfg d then .refused (.unpredictable .sbzNotZero)
  else if s.repetitionBad (l2DescAddr s.parent s.req.va) (encode (.l2LargePage d)) then
    .refused (.unpredictable .repetition)
  else s.useLeaf (leafOfLargePage s.cfg s.parent d s.req.va)

/-- `L2_SMALL_PAGE` (R92): should-be-zero bits of the parent (R73), then the checks. -/
def execL2SmallPage (d : SmallPageDesc) (s : State) : StepResult :=
  if pageTableSbzBad s.cfg s.parent then .refused (.unpredictable .sbzNotZero)
  else s.useLeaf (leafOfSmallPage s.cfg s.parent d s.req.va)

end Sys2Proof.Machine
end

