-- ==== Sys2Proof/Machine/Dispatch.lean ====
section
/-! DEFINITION. The meaning of each descriptor type, one arm per row of the opcode table. -/

namespace Sys2Proof.Machine

def exec (i : Instr) (s : State) : Host.Outcome State Fault Refusal :=
  match i with
  | .l1Fault ign => Sys2Proof.Machine.execL1Fault ign s
  | .l1PageTable d => Sys2Proof.Machine.execL1PageTable d s
  | .l1Section d => Sys2Proof.Machine.execL1Section d s
  | .l1Supersection d => Sys2Proof.Machine.execL1Supersection d s
  | .l2Fault ign => Sys2Proof.Machine.execL2Fault ign s
  | .l2LargePage d => Sys2Proof.Machine.execL2LargePage d s
  | .l2SmallPage d => Sys2Proof.Machine.execL2SmallPage d s

end Sys2Proof.Machine
end

