-- ==== Sys2Proof/Machine/Step.lean ====
section
/-! DEFINITION. One step: a descriptor is read and run, or a kept translation answers, or the machine waits (spec rules R49, R56,
R175). -/

namespace Sys2Proof.Machine

/-- Read the descriptor of level `lvl` that the walk needs, and run it. A read that gets no data is an external abort at that
level (R175). The decoder's other error, bytes that are not one word, cannot arise from a word; the reserved type is R66's. -/
def runDescriptor (lvl : Level) (s : State) : Host.Outcome State Fault Refusal :=
  match s.fetchWord with
  | none => s.raise .externalAbortOnWalk lvl none
  | some w =>
    match decodeWord s.cfg lvl w with
    | .ok i => exec i s
    | .error _ => s.reservedType

/-- One step of the machine. With no translation in progress it waits for a request (assumption log 24). -/
def step (s : State) : Host.Outcome State Fault Refusal :=
  match s.walk with
  | .idle => .next s
  | .second => runDescriptor .second s
  | .first =>
    match s.tlbPick with
    | some e => s.countChoice.useKept e
    | none => runDescriptor .first s.countChoice

/-- The state with the instruction's word stored where the next step reads its descriptor: a translation of the request the
state holds is in progress, and the word is at the address of the descriptor it reads next (assumption log 4). -/
def State.withFetchWord (s : State) (nbits w : Nat) : State :=
  s.inProgress.storeWord s.inProgress.secure (s.inProgress.fetchAddr.setWidth 40) (BitVec.ofNat 32 (w % 2 ^ nbits))

end Sys2Proof.Machine
end

