-- ==== Sys2Proof/Machine/Translate.lean ====
section
/-! DEFINITION. `Translate(req)` of spec rule R49 as one function of the state, written over the raw descriptor words with the bit
positions of rules R82, R83, R91, R92 (not through the decoder), for statements about whole translations. The machine's steps
do not use it. -/

namespace Sys2Proof.Machine

/-- What steps 1 to 3 of `Translate` yield: a leaf record, or the end of the translation. -/
inductive WalkResult where
  | leaf (l : Leaf)
  | stop (t : Translation)
deriving DecidableEq, Repr

/-- The attributes of a Section or Supersection word (R82, R83). -/
def firstLevelAttrs (cfg : Config) (size : BlockSize) (domain : BitVec 4) (d1 : Word) : Attrs where
  size   := size
  level  := .first
  domain := domain
  ap     := d1.extractLsb 15 15 ++ d1.extractLsb 11 10
  xn     := d1.getLsbD 4
  pxn    := if cfg.pxnSupported then d1.getLsbD 0 else false
  nG     := d1.getLsbD 17
  S      := d1.getLsbD 16
  tex    := d1.extractLsb 14 12
  c      := d1.getLsbD 3
  b      := d1.getLsbD 2
  impdef := d1.getLsbD 9

/-- Steps 2 and 3 for a first-level mapping word (R82, R83, R57); `a1` is where it was read. -/
def walkFirstLevelMapping (s : State) (a1 d1 : Word) : WalkResult :=
  if d1.getLsbD 18 then
    if s.repetitionBad a1 d1 then .stop (.unpredictable .repetition)
    else
      .leaf
        { pa := d1.extractLsb 8 5 ++ d1.extractLsb 23 20 ++ d1.extractLsb 31 24 ++ s.req.va.extractLsb 23 0
          ns := d1.getLsbD 19
          attrs := firstLevelAttrs s.cfg .supersection 0 d1 }
  else
    .leaf
      { pa := (d1.extractLsb 31 20 ++ s.req.va.extractLsb 19 0).setWidth 40
        ns := d1.getLsbD 19
        attrs := firstLevelAttrs s.cfg .sectionBlock (d1.extractLsb 8 5) d1 }

/-- The should-be-zero check of the Page table word `d1` (R66, R73). -/
def pageTableWordBad (cfg : Config) (d1 : Word) : Bool :=
  !cfg.sbzIgnored && (d1.getLsbD 4 || (!cfg.pxnSupported && d1.getLsbD 2))

/-- Steps 2 and 3 for the second-level word `d2` read at `a2` below the Page table word `d1` (R90 to R93, R73, R57). -/
def walkSecondLevel (s : State) (d1 a2 d2 : Word) : WalkResult :=
  let pxn := if s.cfg.pxnSupported then d1.getLsbD 2 else false
  if d2.getLsbD 1 then
    if pageTableWordBad s.cfg d1 then .stop (.unpredictable .sbzNotZero)
    else
      .leaf
        { pa := (d2.extractLsb 31 12 ++ s.req.va.extractLsb 11 0).setWidth 40
          ns := d1.getLsbD 3
          attrs :=
            { size := .smallPage, level := .second, domain := d1.extractLsb 8 5,
              ap := d2.extractLsb 9 9 ++ d2.extractLsb 5 4, xn := d2.getLsbD 0, pxn := pxn, nG := d2.getLsbD 11,
              S := d2.getLsbD 10, tex := d2.extractLsb 8 6, c := d2.getLsbD 3, b := d2.getLsbD 2,
              impdef := d1.getLsbD 9 } }
  else if d2.getLsbD 0 then
    if pageTableWordBad s.cfg d1 || (!s.cfg.sbzIgnored && d2.extractLsb 8 6 != 0) then
      .stop (.unpredictable .sbzNotZero)
    else if s.repetitionBad a2 d2 then .stop (.unpredictable .repetition)
    else
      .leaf
        { pa := (d2.extractLsb 31 16 ++ s.req.va.extractLsb 15 0).setWidth 40
          ns := d1.getLsbD 3
          attrs :=
            { size := .largePage, level := .second, domain := d1.extractLsb 8 5,
              ap := d2.extractLsb 9 9 ++ d2.extractLsb 5 4, xn := d2.getLsbD 15, pxn := pxn, nG := d2.getLsbD 11,
              S := d2.getLsbD 10, tex := d2.extractLsb 14 12, c := d2.getLsbD 3, b := d2.getLsbD 2,
              impdef := d1.getLsbD 9 } }
  else .stop (.responds (.fault .translation .second (some (d1.extractLsb 8 5))))

/-- Steps 1 to 3 of `Translate` (R49) for the request the state holds. -/
def walkLeaf (s : State) : WalkResult :=
  let a1 := l1DescAddr s.regs s.req.va
  match s.walkRead a1 with
  | none => .stop (.responds (.fault .externalAbortOnWalk .first none))
  | some d1 =>
    if d1.getLsbD 1 then
      if d1.getLsbD 0 && !s.cfg.pxnSupported then
        match s.cfg.l1Type3NoPxn with
        | .refuse => .stop (.unpredictable .l1Type0b11WithoutPxn)
        | .translationFault => .stop (.responds (.fault .translation .first none))
      else walkFirstLevelMapping s a1 d1
    else if d1.getLsbD 0 then
      let a2 : Word := d1.extractLsb 31 10 ++ s.req.va.extractLsb 19 12 ++ 0#2
      match s.walkRead a2 with
      | none => .stop (.responds (.fault .externalAbortOnWalk .second none))
      | some d2 => walkSecondLevel s d1 a2 d2
    else .stop (.responds (.fault .translation .first none))

/-- `Translate(req)` (R49): the whole translation, from the tables. -/
def translateReq (s : State) : Translation :=
  match walkLeaf s with
  | .leaf l => s.checked l
  | .stop t => t

end Sys2Proof.Machine
end

