-- ==== Sys2Proof/Safety.lean ====
section
/-! DEFINITION. The terms statements use: what a whole translation answers, which descriptors give a leaf, the invariant of the
state, a table set-up that software owes the hardware (spec rule R201), and kept translations that agree with the tables (R56). -/

namespace Sys2Proof.Machine

/-- One whole translation by the machine: a step, and a second one where the first read a Page table descriptor (R203). -/
def serve (s : State) : Host.Outcome State Fault Refusal :=
  match step s with
  | .next t => if t.walk = .second then step t else .next t
  | .fault r => .fault r
  | .refused r => .refused r

/-- The result of a translation as the requester sees it after `serve` (R8). -/
def answerOf (o : Host.Outcome State Fault Refusal) : Option Translation :=
  match o with
  | .next t => t.result.map .responds
  | .fault _ => none
  | .refused (.unpredictable why) => some (.unpredictable why)
  | .refused _ => none

/-- The leaf record a mapping descriptor gives in the state; none for the Fault and Page table types (R48). -/
def mappedLeaf (s : State) : Instr → Option Leaf
  | .l1Fault _ => none
  | .l1PageTable _ => none
  | .l1Section d => some (leafOfSection s.cfg d s.req.va)
  | .l1Supersection d => some (leafOfSupersection s.cfg d s.req.va)
  | .l2Fault _ => none
  | .l2LargePage d => some (leafOfLargePage s.cfg s.parent d s.req.va)
  | .l2SmallPage d => some (leafOfSmallPage s.cfg s.parent d s.req.va)

/-- The descriptor passes step 3 of `Translate` in the state (R49, R57, R73). -/
def passesStep3 (s : State) : Instr → Bool
  | .l1Fault _ => true
  | .l1PageTable _ => true
  | .l1Section _ => true
  | .l1Supersection d => !s.repetitionBad (l1DescAddr s.regs s.req.va) (encode (.l1Supersection d))
  | .l2Fault _ => true
  | .l2LargePage d =>
      !pageTableSbzBad s.cfg s.parent && !largePageSbzBad s.cfg d
        && !s.repetitionBad (l2DescAddr s.parent s.req.va) (encode (.l2LargePage d))
  | .l2SmallPage _ => !pageTableSbzBad s.cfg s.parent

/-- The checks of R49 steps 4 and 5 let the access through: the Access flag does not fault, and the domain is Manager, or it is
Client and the permission check permits (R111, R144, R154). -/
def accessPermitted (s : State) (a : Attrs) : Prop :=
  accessFlagClear s.regs a = false ∧
    (checkDomain s.regs a.domain = .manager ∨
      (checkDomain s.regs a.domain = .client ∧ checkPermission s.regs a s.req.kind s.req.pl = .permitted))

/-- An attribute record that a descriptor can give (R48, R66, R109, R176). -/
structure Attrs.Wf (cfg : Config) (a : Attrs) : Prop where
  level_first : a.level = .first ↔ (a.size = .supersection ∨ a.size = .sectionBlock)
  supersection_domain : a.size = .supersection → a.domain = 0
  pxn_supported : a.pxn = true → cfg.pxnSupported = true

/-- A leaf a descriptor can give: only a Supersection has PA bits above 31 (R41). -/
structure Leaf.Wf (cfg : Config) (l : Leaf) : Prop where
  attrs : l.attrs.Wf cfg
  pa_32 : l.attrs.size ≠ .supersection → l.pa.toNat < 2 ^ 32

/-- An answer the hardware can give: the record of an `Ok` as above, and the domain of a fault recorded exactly where R170 says
it is known. -/
def Response.Wf (cfg : Config) : Response → Prop
  | .ok pa _ attrs => attrs.Wf cfg ∧ (attrs.size ≠ .supersection → pa.toNat < 2 ^ 32)
  | .fault .translation .first domain => domain = none
  | .fault .translation .second domain => domain.isSome
  | .fault .accessFlag _ domain => domain.isSome
  | .fault .domain _ domain => domain.isSome
  | .fault .permission _ domain => domain.isSome
  | .fault .externalAbortOnWalk _ domain => domain = none

/-- A kept record: the leaf of a block, at the block's own base. -/
structure TlbEntry.Wf (cfg : Config) (e : TlbEntry) : Prop where
  leaf : e.leaf.Wf cfg
  va_base : e.covers e.vaBase = true
  pa_base : (e.leaf.pa >>> blockBits e.leaf.attrs.size) <<< blockBits e.leaf.attrs.size = e.leaf.pa

/-- What holds of the state at reset and after every step. -/
structure State.Inv (s : State) : Prop where
  memS_wf : Memory.wf s.memS
  memNS_wf : Memory.wf s.memNS
  tlb_wf : ∀ e ∈ s.tlb, e.Wf s.cfg
  tlb_nodup : s.tlb.Nodup
  tlb_static : s.cfg.tlbModel = .staticTables → s.tlb = []
  pending : s.walk ≠ .idle → s.result = none
  answer_wf : ∀ r, s.result = some r → r.Wf s.cfg
  nonsecure_map : ∀ pa ns attrs, s.result = some (.ok pa ns attrs) → s.secure = false → ns = true

/-- AP[2:0] = 0b100 is not used in the AP[2:0] model (R142, R201 item 5). -/
def apAllowed (r : ControlRegs) (ap : BitVec 3) : Prop := sctlrAfe r = true ∨ ap ≠ 0b100#3

/-- The second-level descriptor that a walk of `va` reads below `p`, if the memory gives one, is fit for use (R57, R73, R201). -/
def secondLevelSetup (s : State) (p : PageTableDesc) (va : Word) : Prop :=
  ∀ d2, s.walkRead (l2DescAddr p va) = some d2 →
    match decodeSecond d2 with
    | .l2LargePage d =>
        pageTableSbzBad s.cfg p = false ∧ largePageSbzBad s.cfg d = false
          ∧ s.repetitionBad (l2DescAddr p va) d2 = false ∧ apAllowed s.regs d.ap
    | .l2SmallPage d => pageTableSbzBad s.cfg p = false ∧ apAllowed s.regs d.ap
    | _ => True

/-- The first-level descriptor that a walk of `va` reads, if the memory gives one, is fit for use, and so is what it leads to
(R57, R66, R201). -/
def firstLevelSetup (s : State) (va : Word) : Prop :=
  ∀ d1, s.walkRead (l1DescAddr s.regs va) = some d1 →
    match decodeFirst s.cfg d1 with
    | .error _ => s.cfg.l1Type3NoPxn = .translationFault
    | .ok (.l1Section d) => apAllowed s.regs d.ap
    | .ok (.l1Supersection d) => apAllowed s.regs d.ap ∧ s.repetitionBad (l1DescAddr s.regs va) d1 = false
    | .ok (.l1PageTable p) => secondLevelSetup s p va
    | .ok _ => True

/-- What software owes the hardware before it asks for a translation (R201 items 4, 5, 7), for the security state of the request:
every reachable descriptor fit for use and no domain set to the Reserved value; and the same of what is kept and in progress. -/
structure State.Setup (s : State) : Prop where
  domains : ∀ n, checkDomain s.regs n ≠ .reserved
  tables : ∀ va, firstLevelSetup s va
  kept : ∀ e ∈ s.tlb, apAllowed s.regs e.leaf.attrs.ap
  in_walk : s.walk = .second → secondLevelSetup s s.parent s.req.va

/-- The state with its request asking for another address. -/
def State.atVa (s : State) (va : Word) : State := { s with req := { s.req with va := va } }

/-- What is kept agrees with the tables, for the security state of the request, at every address of each kept block; and the
descriptor of a walk in progress is the one the tables hold. -/
structure State.Coherent (s : State) : Prop where
  kept : ∀ e ∈ s.tlb, ∀ va, e.covers va = true → walkLeaf (s.atVa va) = .leaf (e.leafFor va)
  parent : s.walk = .second →
    ∃ d1, s.walkRead (l1DescAddr s.regs s.req.va) = some d1 ∧ decodeFirst s.cfg d1 = .ok (.l1PageTable s.parent)

end Sys2Proof.Machine
end

