-- ==== Sys2Proof/Certificates/Slice0/Obligations.lean ====
section
/-! DEFINITION. The statements about the model. Each docstring names the rule of spec/ it formalises. Where a rule is one that the
spec marks as its own (a decision D<n> of 92_eei_decisions.md or general knowledge G<n> of 93_implementation_defined.md) or the
clause is this model's choice, the docstring says so and names the entry. -/

open Sys2Proof Sys2Proof.Machine

/-! ## Encoding -/

/-- The constructor functions of R77 are "the inverse of rules R62 to R70": every descriptor of both levels that exists on the
implementation, with every field at every value, is what the decoder reads from its word. Should-be-zero and ignored bits are
fields too, so no bit of an encoding is dropped. -/
def Obligations.DecodeOfEncodedDescriptor : Prop :=
  ∀ (cfg : Config) (i : Instr), i.wellFormed cfg = true → decodeWord cfg i.level (encode i) = .ok i

/-- The other direction: a word the decoder reads is the word of exactly that descriptor, of the level it was read at, and the
descriptor exists on the implementation. -/
def Obligations.EncodeOfDecodedWord : Prop :=
  ∀ (cfg : Config) (lvl : Level) (w : Word) (i : Instr), decodeWord cfg lvl w = .ok i →
    encode i = w ∧ i.level = lvl ∧ i.wellFormed cfg = true

/-- A descriptor is one 32-bit word (R60) read as four bytes in the order of the parameter (R46, R47): four bytes that hold a word
decode as the word does, and any other number of bytes is no descriptor. -/
def Obligations.DecodeOfBytesInMemory : Prop :=
  ∀ (cfg : Config) (lvl : Level),
    (∀ w : Word, decode cfg lvl (bytesOfWord cfg.walkBigEndian w) = decodeWord cfg lvl w) ∧
    (∀ bs : List Byte, bs.length ≠ 4 → decode cfg lvl bs = .error .notOneWord)

/-- The type table of R61, row by row. The last row, where PXN is not supported, is the spec's own decision D13. -/
def Obligations.FirstLevelTypeDecode : Prop :=
  ∀ (cfg : Config) (w : Word),
    (w.extractLsb 1 0 = 0b00#2 → ∃ ign, decodeWord cfg .first w = .ok (.l1Fault ign)) ∧
    (w.extractLsb 1 0 = 0b01#2 → ∃ d, decodeWord cfg .first w = .ok (.l1PageTable d)) ∧
    (w.extractLsb 1 0 = 0b10#2 → w.getLsbD 18 = false →
      ∃ d, decodeWord cfg .first w = .ok (.l1Section d) ∧ d.pxn = false) ∧
    (w.extractLsb 1 0 = 0b10#2 → w.getLsbD 18 = true →
      ∃ d, decodeWord cfg .first w = .ok (.l1Supersection d) ∧ d.pxn = false) ∧
    (w.extractLsb 1 0 = 0b11#2 → cfg.pxnSupported = true → w.getLsbD 18 = false →
      ∃ d, decodeWord cfg .first w = .ok (.l1Section d) ∧ d.pxn = true) ∧
    (w.extractLsb 1 0 = 0b11#2 → cfg.pxnSupported = true → w.getLsbD 18 = true →
      ∃ d, decodeWord cfg .first w = .ok (.l1Supersection d) ∧ d.pxn = true) ∧
    (w.extractLsb 1 0 = 0b11#2 → cfg.pxnSupported = false → decodeWord cfg .first w = .error .l1Reserved)

/-- The type table of R67, which the spec derives from the three formats: total, and the same on every implementation. -/
def Obligations.SecondLevelTypeDecode : Prop :=
  ∀ (cfg : Config) (w : Word),
    (w.extractLsb 1 0 = 0b00#2 → ∃ ign, decodeWord cfg .second w = .ok (.l2Fault ign)) ∧
    (w.extractLsb 1 0 = 0b01#2 → ∃ d, decodeWord cfg .second w = .ok (.l2LargePage d)) ∧
    (w.extractLsb 1 0 = 0b10#2 → ∃ d, decodeWord cfg .second w = .ok (.l2SmallPage d) ∧ d.xn = false) ∧
    (w.extractLsb 1 0 = 0b11#2 → ∃ d, decodeWord cfg .second w = .ok (.l2SmallPage d) ∧ d.xn = true)

/-- The bit tables of R63 and R64: the fields of a Page table and of a Section descriptor are the bits the format gives. That a
decoded Page table descriptor carries bit[2] as `pxn` also where PXN is not supported is the model's reading, assumption log 25. -/
def Obligations.PageTableAndSectionFieldPositions : Prop :=
  ∀ (cfg : Config) (w : Word),
    (∀ d, decodeWord cfg .first w = .ok (.l1PageTable d) →
      w.extractLsb 1 0 = 0b01#2 ∧ d.base = w.extractLsb 31 10 ∧ d.impdef = w.getLsbD 9 ∧ d.domain = w.extractLsb 8 5 ∧
      d.sbz = w.getLsbD 4 ∧ d.ns = w.getLsbD 3 ∧ d.pxn = w.getLsbD 2) ∧
    (∀ d, decodeWord cfg .first w = .ok (.l1Section d) →
      w.getLsbD 1 = true ∧ w.getLsbD 18 = false ∧
      d.base = w.extractLsb 31 20 ∧ d.ns = w.getLsbD 19 ∧ d.nG = w.getLsbD 17 ∧ d.S = w.getLsbD 16 ∧
      d.ap = w.extractLsb 15 15 ++ w.extractLsb 11 10 ∧ d.tex = w.extractLsb 14 12 ∧ d.impdef = w.getLsbD 9 ∧
      d.domain = w.extractLsb 8 5 ∧ d.xn = w.getLsbD 4 ∧ d.c = w.getLsbD 3 ∧ d.b = w.getLsbD 2 ∧ d.pxn = w.getLsbD 0)

/-- The bit table of R65: PA[39:36] is bits[8:5], PA[35:32] is bits[23:20], PA[31:24] is bits[31:24], and there is no domain field:
the leaf is in domain 0 whatever the word holds. -/
def Obligations.SupersectionFieldPositions : Prop :=
  ∀ (cfg : Config) (w : Word) (d : SupersectionDesc), decodeWord cfg .first w = .ok (.l1Supersection d) →
    w.getLsbD 1 = true ∧ w.getLsbD 18 = true ∧
    d.base.extractLsb 15 12 = w.extractLsb 8 5 ∧ d.base.extractLsb 11 8 = w.extractLsb 23 20 ∧
    d.base.extractLsb 7 0 = w.extractLsb 31 24 ∧
    d.ns = w.getLsbD 19 ∧ d.nG = w.getLsbD 17 ∧ d.S = w.getLsbD 16 ∧
    d.ap = w.extractLsb 15 15 ++ w.extractLsb 11 10 ∧ d.tex = w.extractLsb 14 12 ∧ d.impdef = w.getLsbD 9 ∧
    d.xn = w.getLsbD 4 ∧ d.c = w.getLsbD 3 ∧ d.b = w.getLsbD 2 ∧ d.pxn = w.getLsbD 0 ∧
    ∀ va : Word, (leafOfSupersection cfg d va).attrs.domain = 0

/-- The bit tables of R69 and R70 (90_conflicts.md C1: bits 15 to 12 of a Small page are address bits). -/
def Obligations.SecondLevelFieldPositions : Prop :=
  ∀ (cfg : Config) (w : Word),
    (∀ d, decodeWord cfg .second w = .ok (.l2LargePage d) →
      w.extractLsb 1 0 = 0b01#2 ∧
      d.base = w.extractLsb 31 16 ∧ d.xn = w.getLsbD 15 ∧ d.tex = w.extractLsb 14 12 ∧ d.nG = w.getLsbD 11 ∧
      d.S = w.getLsbD 10 ∧ d.ap = w.extractLsb 9 9 ++ w.extractLsb 5 4 ∧ d.sbz = w.extractLsb 8 6 ∧ d.c = w.getLsbD 3 ∧
      d.b = w.getLsbD 2) ∧
    (∀ d, decodeWord cfg .second w = .ok (.l2SmallPage d) →
      w.getLsbD 1 = true ∧
      d.base = w.extractLsb 31 12 ∧ d.nG = w.getLsbD 11 ∧ d.S = w.getLsbD 10 ∧
      d.ap = w.extractLsb 9 9 ++ w.extractLsb 5 4 ∧ d.tex = w.extractLsb 8 6 ∧ d.c = w.getLsbD 3 ∧ d.b = w.getLsbD 2 ∧
      d.xn = w.getLsbD 0)

/-- One word of each descriptor type, written bit by bit from the formats, decodes to the type with its fields (the words of
95_test_vectors.md 2.1 and 2.2, on the default implementation). -/
def Obligations.WrittenWordsDecode : Prop :=
  decodeWord .default .first (0b111111111111111111111111111111#30 ++ 0b00#2) = .ok (.l1Fault 0x3FFFFFFF#30) ∧
  decodeWord .default .first
      (0b0000000000000000100011#22 ++ 0b0#1 ++ 0b1111#4 ++ 0b0#1 ++ 0b0#1 ++ 0b0#1 ++ 0b01#2) =
    .ok (.l1PageTable { base := 0x23#22, impdef := false, domain := 15#4, sbz := false, ns := false, pxn := false }) ∧
  decodeWord .default .first 0xABCBA6F7#32 =
    .ok (.l1Section { base := 0xABC#12, ns := true, nG := true, S := true, ap := 0b101#3, tex := 0b010#3, impdef := true,
                      domain := 7#4, xn := true, c := false, b := true, pxn := true }) ∧
  decodeWord .default .first 0xC4551D4E#32 =
    .ok (.l1Supersection { base := 0xA5C4#16, ns := false, nG := false, S := true, ap := 0b011#3, tex := 0b001#3,
                           impdef := false, xn := false, c := true, b := true, pxn := false }) ∧
  decodeWord .default .second 0x12345678#32 = .ok (.l2Fault 0x48D159E#30) ∧
  decodeWord .default .second 0x4321DA29#32 =
    .ok (.l2LargePage { base := 0x4321#16, xn := true, tex := 0b101#3, nG := true, S := false, ap := 0b110#3, sbz := 0#3,
                        c := true, b := false }) ∧
  decodeWord .default .second 0x9ABCD47F#32 =
    .ok (.l2SmallPage { base := 0x9ABCD#20, nG := false, S := true, ap := 0b011#3, tex := 0b001#3, c := true, b := true,
                        xn := true })

/-- R74: a Fault descriptor behaves the same for every value of its bits[31:2]. -/
def Obligations.FaultDescriptorsBehaveAlike : Prop :=
  ∀ (cfg : Config) (lvl : Level) (w w' : Word) (i i' : Instr) (s : State),
    w.extractLsb 1 0 = 0b00#2 → w'.extractLsb 1 0 = 0b00#2 →
    decodeWord cfg lvl w = .ok i → decodeWord cfg lvl w' = .ok i' → exec i s = exec i' s

/-- R5: LPAE forces PXN; without LPAE either value is possible. -/
def Obligations.LpaeForcesPxn : Prop :=
  ∀ cfg : Config,
    (cfg.lpae = true → cfg.pxnSupported = true) ∧
    (cfg.lpae = false → ∀ b : Bool, { cfg with pxnOption := b }.pxnSupported = b)

/-! ## Descriptor addresses -/

/-- R131: TTBR0 is used exactly when N is 0 or the N top bits of the address are all zero, which is the split of the address space
that the rule tabulates. The test is general knowledge that the spec adopts (G17), and so is the place of N in TTBCR (G5). -/
def Obligations.Ttbr0ServesTheLowAddresses : Prop :=
  ∀ (r : ControlRegs) (va : Word),
    ttbcrN r = r.ttbcr.toNat % 8 ∧
    (usesTTBR0 r va = true ↔ ttbcrN r = 0 ∨ ∀ i, 32 - ttbcrN r ≤ i → i < 32 → va.getLsbD i = false) ∧
    (usesTTBR0 r va = true ↔ va.toNat < 2 ^ (32 - ttbcrN r))

/-- R133, as arithmetic: the base with the bits below it cleared, and four times the index. The layout of the base registers and
the index through TTBR1 are general knowledge that the spec adopts (G4). -/
def Obligations.FirstLevelDescriptorAddress : Prop :=
  ∀ (r : ControlRegs) (va : Word),
    (va.toNat < 2 ^ (32 - ttbcrN r) →
      (l1DescAddr r va).toNat =
        r.ttbr0.toNat / 2 ^ (14 - ttbcrN r) * 2 ^ (14 - ttbcrN r) + 4 * (va.toNat / 2 ^ 20 % 2 ^ (12 - ttbcrN r))) ∧
    (2 ^ (32 - ttbcrN r) ≤ va.toNat →
      (l1DescAddr r va).toNat = r.ttbr1.toNat / 2 ^ 14 * 2 ^ 14 + 4 * (va.toNat / 2 ^ 20))

/-- R44: entry `i` of a table with base `B` is at `B + 4*i`, the index is inside the table (4096 >> N entries through TTBR0, 4096
through TTBR1), and the table is aligned to its own size. -/
def Obligations.FirstLevelDescriptorInsideItsTable : Prop :=
  ∀ (r : ControlRegs) (va : Word),
    let entries := if usesTTBR0 r va then 4096 / 2 ^ ttbcrN r else 4096
    (l1DescAddr r va).toNat = (l1TableBase r va).toNat + 4 * (l1Index r va).toNat ∧
    (l1Index r va).toNat < entries ∧ (l1TableBase r va).toNat % (4 * entries) = 0

/-- R45: entry `j` = va[19:12] of a 1 KByte table at the base of the Page table descriptor. The index bits and the entry count are
general knowledge that the spec adopts (G8). -/
def Obligations.SecondLevelDescriptorAddress : Prop :=
  ∀ (p : PageTableDesc) (va : Word),
    (l2DescAddr p va).toNat = p.base.toNat * 1024 + 4 * (va.toNat / 2 ^ 12 % 256)

/-! ## The checks -/

/-- R16: domain n is set by bits[2n+1 : 2n] of the DACR, with the four settings of R17; no other bit is read. -/
def Obligations.DomainSettingFromDacrBits : Prop :=
  ∀ (r : ControlRegs) (n : BitVec 4),
    (r.dacr.getLsbD (2 * n.toNat + 1) = false → r.dacr.getLsbD (2 * n.toNat) = false → checkDomain r n = .noAccess) ∧
    (r.dacr.getLsbD (2 * n.toNat + 1) = false → r.dacr.getLsbD (2 * n.toNat) = true → checkDomain r n = .client) ∧
    (r.dacr.getLsbD (2 * n.toNat + 1) = true → r.dacr.getLsbD (2 * n.toNat) = false → checkDomain r n = .reserved) ∧
    (r.dacr.getLsbD (2 * n.toNat + 1) = true → r.dacr.getLsbD (2 * n.toNat) = true → checkDomain r n = .manager)

/-- R141, the AP[2:1] model (SCTLR.AFE = 1): the table row by row, AP[0] playing no part. -/
def Obligations.SimplifiedPermissionTable : Prop :=
  ∀ (ap : BitVec 3) (priv : Bool),
    (ap.extractLsb 2 1 = 0b00#2 → perms true ap priv = some { read := priv, write := priv }) ∧
    (ap.extractLsb 2 1 = 0b01#2 → perms true ap priv = some { read := true, write := true }) ∧
    (ap.extractLsb 2 1 = 0b10#2 → perms true ap priv = some { read := priv, write := false }) ∧
    (ap.extractLsb 2 1 = 0b11#2 → perms true ap priv = some { read := true, write := false })

/-- R142, the AP[2:0] model (SCTLR.AFE = 0): the table row by row. That 0b100 is refused is the spec's own decision D12. -/
def Obligations.FullPermissionTable : Prop :=
  ∀ priv : Bool,
    perms false 0b000#3 priv = some { read := false, write := false } ∧
    perms false 0b001#3 priv = some { read := priv, write := priv } ∧
    perms false 0b010#3 priv = some { read := true, write := priv } ∧
    perms false 0b011#3 priv = some { read := true, write := true } ∧
    perms false 0b100#3 priv = none ∧
    perms false 0b101#3 priv = some { read := priv, write := false } ∧
    perms false 0b110#3 priv = some { read := true, write := false } ∧
    perms false 0b111#3 priv = some { read := true, write := false }

/-- R145, first table: the complete outcome in a Client domain with SCTLR.AFE = 0, for every AP, kind, privilege level, XN and PXN.
That a fetch needs read permission (D15) and that PL2 counts as privileged (D16) are the spec's own decisions. -/
def Obligations.PermissionOutcomesFullModel : Prop :=
  ∀ (r : ControlRegs) (a : Attrs) (pl : PrivLevel), sctlrAfe r = false →
    let readers : List (BitVec 3) := if pl = .pl0 then [2, 3, 6, 7] else [1, 2, 3, 5, 6, 7]
    let writers : List (BitVec 3) := if pl = .pl0 then [3] else [1, 2, 3]
    (a.ap = 0b100#3 → ∀ kind, checkPermission r a kind pl = .reserved) ∧
    (a.ap ≠ 0b100#3 →
      checkPermission r a .read pl = (if a.ap ∈ readers then .permitted else .denied) ∧
      checkPermission r a .write pl = (if a.ap ∈ writers then .permitted else .denied) ∧
      checkPermission r a .execute pl =
        (if a.ap ∈ readers ∧ a.xn = false ∧ (a.pxn = false ∨ pl = .pl0) then .permitted else .denied))

/-- R145, second table: the complete outcome in a Client domain with SCTLR.AFE = 1, by AP[2:1]; no value is reserved. D15 and D16
enter as in the first table. -/
def Obligations.PermissionOutcomesSimplifiedModel : Prop :=
  ∀ (r : ControlRegs) (a : Attrs) (pl : PrivLevel), sctlrAfe r = true →
    let readers : List (BitVec 2) := if pl = .pl0 then [1, 3] else [0, 1, 2, 3]
    let writers : List (BitVec 2) := if pl = .pl0 then [1] else [0, 1]
    checkPermission r a .read pl = (if a.ap.extractLsb 2 1 ∈ readers then .permitted else .denied) ∧
    checkPermission r a .write pl = (if a.ap.extractLsb 2 1 ∈ writers then .permitted else .denied) ∧
    checkPermission r a .execute pl =
      (if a.ap.extractLsb 2 1 ∈ readers ∧ a.xn = false ∧ (a.pxn = false ∨ pl = .pl0) then .permitted else .denied)

/-- R109: where the domain of a leaf comes from, in the bits of the descriptor words; a Supersection is in domain 0 whatever its
bits[8:5] hold. -/
def Obligations.DomainOfTheLeaf : Prop :=
  ∀ (s : State) (w : Word) (i : Instr) (l : Leaf), mappedLeaf s i = some l →
    (∀ d, i = .l1Section d → decodeWord s.cfg .first w = .ok i → l.attrs.domain = w.extractLsb 8 5) ∧
    (∀ d, i = .l1Supersection d → l.attrs.domain = 0) ∧
    (∀ d, i = .l2LargePage d → decodeWord s.cfg .first w = .ok (.l1PageTable s.parent) →
      l.attrs.domain = w.extractLsb 8 5) ∧
    (∀ d, i = .l2SmallPage d → decodeWord s.cfg .first w = .ok (.l1PageTable s.parent) →
      l.attrs.domain = w.extractLsb 8 5)

/-- R66 (c): where PXN is not supported, the `pxn` of every leaf is 0. The spec's own decision D13. -/
def Obligations.NoPxnInAnyLeafWithoutSupport : Prop :=
  ∀ (s : State) (i : Instr) (l : Leaf), s.cfg.pxnSupported = false → mappedLeaf s i = some l → l.attrs.pxn = false

/-! ## What each descriptor does -/

/-- R80: `L1_FAULT` ends the translation with `TranslationFault(level = 1)` and no domain, in every state, and changes nothing
else. The name and the effect are general knowledge that the spec adopts (G13). -/
def Obligations.L1FaultAnswersTranslationFault : Prop :=
  ∀ (ign : BitVec 30) (s : State),
    exec (.l1Fault ign) s = .next { s with result := some (.fault .translation .first none), walk := .idle }

/-- R90: `L2_FAULT` ends the translation with `TranslationFault(level = 2)` and the parent's domain, in every state (whatever the
DACR, SCTLR.AFE and the parent's should-be-zero bits), and changes nothing else. Effect from G13, the order from D6. -/
def Obligations.L2FaultAnswersTranslationFault : Prop :=
  ∀ (ign : BitVec 30) (s : State),
    exec (.l2Fault ign) s =
      .next { s with result := some (.fault .translation .second (some s.parent.domain)), walk := .idle }

/-- R81: `L1_PAGE_TABLE` permits and denies nothing: the walk goes on with the descriptor at `base : va[19:12] : 00`, and the
fields are handed down; nothing else changes. -/
def Obligations.PageTableHandsTheWalkDown : Prop :=
  ∀ (d : PageTableDesc) (s : State),
    ∃ t, exec (.l1PageTable d) s = .next t ∧ t = { s with parent := d, walk := .second } ∧
      t.fetchAddr.toNat = d.base.toNat * 1024 + 4 * (s.req.va.toNat / 2 ^ 12 % 256)

/-- R82 with R49 and R108: where the checks let the access through, `L1_SECTION` answers `Ok` at base : va[19:0], with the
attributes the descriptor gives; nothing else changes but that the leaf is kept where translations are kept (R56; when: log 12). -/
def Obligations.SectionAnswersOk : Prop :=
  ∀ (d : SectionDesc) (s : State),
    let attrs : Attrs :=
      { size := .sectionBlock, level := .first, domain := d.domain, ap := d.ap, xn := d.xn,
        pxn := if s.cfg.pxnSupported then d.pxn else false, nG := d.nG, S := d.S, tex := d.tex, c := d.c, b := d.b,
        impdef := d.impdef }
    accessPermitted s attrs →
      ∃ pa : PhysAddr, pa.toNat = d.base.toNat * 2 ^ 20 + s.req.va.toNat % 2 ^ 20 ∧
        exec (.l1Section d) s =
          .next { s.keep { pa := pa, ns := d.ns, attrs := attrs } with
                  result := some (.ok pa (if s.secure then d.ns else true) attrs), walk := .idle }

/-- R83: `L1_SUPERSECTION` answers `Ok` at PA[39:24] : va[23:0], in domain 0; the repetition of R57 matters only where it is
checked. The leaf is kept where translations are kept (R56; when: log 12). -/
def Obligations.SupersectionAnswersOk : Prop :=
  ∀ (d : SupersectionDesc) (s : State),
    let attrs : Attrs :=
      { size := .supersection, level := .first, domain := 0, ap := d.ap, xn := d.xn,
        pxn := if s.cfg.pxnSupported then d.pxn else false, nG := d.nG, S := d.S, tex := d.tex, c := d.c, b := d.b,
        impdef := d.impdef }
    accessPermitted s attrs → passesStep3 s (.l1Supersection d) = true →
      ∃ pa : PhysAddr, pa.toNat = d.base.toNat * 2 ^ 24 + s.req.va.toNat % 2 ^ 24 ∧
        exec (.l1Supersection d) s =
          .next { s.keep { pa := pa, ns := d.ns, attrs := attrs } with
                  result := some (.ok pa (if s.secure then d.ns else true) attrs), walk := .idle }

/-- R91, R93: `L2_LARGE_PAGE` answers `Ok` at base : va[15:0], with NS, domain, PXN and bit[9] of the parent. The leaf is kept where
translations are kept (R56; when: log 12). -/
def Obligations.LargePageAnswersOk : Prop :=
  ∀ (d : LargePageDesc) (s : State),
    let attrs : Attrs :=
      { size := .largePage, level := .second, domain := s.parent.domain, ap := d.ap, xn := d.xn,
        pxn := if s.cfg.pxnSupported then s.parent.pxn else false, nG := d.nG, S := d.S, tex := d.tex, c := d.c, b := d.b,
        impdef := s.parent.impdef }
    accessPermitted s attrs → passesStep3 s (.l2LargePage d) = true →
      ∃ pa : PhysAddr, pa.toNat = d.base.toNat * 2 ^ 16 + s.req.va.toNat % 2 ^ 16 ∧
        exec (.l2LargePage d) s =
          .next { s.keep { pa := pa, ns := s.parent.ns, attrs := attrs } with
                  result := some (.ok pa (if s.secure then s.parent.ns else true) attrs), walk := .idle }

/-- R92, R93: `L2_SMALL_PAGE` answers `Ok` at base : va[11:0], with NS, domain, PXN and bit[9] of the parent. The leaf is kept where
translations are kept (R56; when: log 12). -/
def Obligations.SmallPageAnswersOk : Prop :=
  ∀ (d : SmallPageDesc) (s : State),
    let attrs : Attrs :=
      { size := .smallPage, level := .second, domain := s.parent.domain, ap := d.ap, xn := d.xn,
        pxn := if s.cfg.pxnSupported then s.parent.pxn else false, nG := d.nG, S := d.S, tex := d.tex, c := d.c, b := d.b,
        impdef := s.parent.impdef }
    accessPermitted s attrs → passesStep3 s (.l2SmallPage d) = true →
      ∃ pa : PhysAddr, pa.toNat = d.base.toNat * 2 ^ 12 + s.req.va.toNat % 2 ^ 12 ∧
        exec (.l2SmallPage d) s =
          .next { s.keep { pa := pa, ns := s.parent.ns, attrs := attrs } with
                  result := some (.ok pa (if s.secure then s.parent.ns else true) attrs), walk := .idle }

/-! ## Where a mapping descriptor faults or is refused -/

/-- R111, R174: with SCTLR.AFE = 1 and AP[0] = 0 each of the four mapping descriptors answers the Access flag fault, whatever the
request and the DACR. The fault (D14, G15) and its place before the domain check (D6, G21) are the spec's own. That the leaf of a
translation that faults here is kept, where translations are kept (R56, D8), is the model's choice, assumption log 12. -/
def Obligations.ClearAccessFlagFaultsFirst : Prop :=
  ∀ (i : Instr) (s : State) (l : Leaf), mappedLeaf s i = some l → passesStep3 s i = true →
    sctlrAfe s.regs = true → l.attrs.ap.getLsbD 0 = false →
      exec i s =
        .next { s.keep l with result := some (.fault .accessFlag l.attrs.level (some l.attrs.domain)), walk := .idle }

/-- R172, R154: in a No access domain each of the four mapping descriptors answers the Domain fault, whatever AP, XN, PXN and the
request are. The recorded level is general knowledge that the spec adopts (G19). That the leaf is kept although the fault is answered,
where translations are kept (R56, D8), is the model's choice, assumption log 12. -/
def Obligations.NoAccessDomainFaults : Prop :=
  ∀ (i : Instr) (s : State) (l : Leaf), mappedLeaf s i = some l → passesStep3 s i = true →
    (sctlrAfe s.regs = true → l.attrs.ap.getLsbD 0 = true) → checkDomain s.regs l.attrs.domain = .noAccess →
      exec i s =
        .next { s.keep l with result := some (.fault .domain l.attrs.level (some l.attrs.domain)), walk := .idle }

/-- R173, R144: in a Client domain an access that the permission check denies is answered with the Permission fault. The recorded
level is general knowledge that the spec adopts (G19). That the leaf is kept although the fault is answered, where translations are
kept (R56, D8), is the model's choice, assumption log 12. -/
def Obligations.DeniedAccessInClientDomainFaults : Prop :=
  ∀ (i : Instr) (s : State) (l : Leaf), mappedLeaf s i = some l → passesStep3 s i = true →
    (sctlrAfe s.regs = true → l.attrs.ap.getLsbD 0 = true) → checkDomain s.regs l.attrs.domain = .client →
    checkPermission s.regs l.attrs s.req.kind s.req.pl = .denied →
      exec i s =
        .next { s.keep l with result := some (.fault .permission l.attrs.level (some l.attrs.domain)), walk := .idle }

/-- R153, R154: in a Manager domain the access permission attributes are not checked: the answer is `Ok` for every kind and
privilege level, whatever AP (0b000 and 0b100 too), XN and PXN hold. That the leaf is kept, where translations are kept (R56, D8),
is as assumption log 12 (DESIGN CHOICE) models it. -/
def Obligations.ManagerDomainIsNotChecked : Prop :=
  ∀ (i : Instr) (s : State) (l : Leaf), mappedLeaf s i = some l → passesStep3 s i = true →
    (sctlrAfe s.regs = true → l.attrs.ap.getLsbD 0 = true) → checkDomain s.regs l.attrs.domain = .manager →
      exec i s =
        .next { s.keep l with
                result := some (.ok l.pa (if s.secure then l.ns else true) l.attrs), walk := .idle }

/-- R76: the Reserved DACR value, and AP[2:0] = 0b100 in a Client domain with SCTLR.AFE = 0, are refused by name, for every request
(the spec's own decision D12). -/
def Obligations.ReservedValuesAreRefused : Prop :=
  ∀ (i : Instr) (s : State) (l : Leaf), mappedLeaf s i = some l → passesStep3 s i = true →
    ((sctlrAfe s.regs = true → l.attrs.ap.getLsbD 0 = true) → checkDomain s.regs l.attrs.domain = .reserved →
      exec i s = .refused (.unpredictable .dacrField0b10)) ∧
    (sctlrAfe s.regs = false → checkDomain s.regs l.attrs.domain = .client → l.attrs.ap = 0b100#3 →
      exec i s = .refused (.unpredictable .ap0b100))

/-- R73, R66: a page below a Page table descriptor with a should-be-zero bit set, and a Large page with one set, is refused before
any check of R49 steps 4 to 6, unless the parameter ignores such bits (the spec's own decision D11; bit[2] without PXN: D13). That
a Large page which is also not repeated is refused under this name and not under `repetition` is the model's choice, assumption
log 13. -/
def Obligations.ShouldBeZeroBitsAreRefused : Prop :=
  ∀ (s : State),
    (s.cfg.sbzIgnored = false →
      (s.parent.sbz = true ∨ (s.cfg.pxnSupported = false ∧ s.parent.pxn = true) →
        (∀ d, exec (.l2LargePage d) s = .refused (.unpredictable .sbzNotZero)) ∧
        (∀ d, exec (.l2SmallPage d) s = .refused (.unpredictable .sbzNotZero))) ∧
      (∀ d : LargePageDesc, d.sbz ≠ 0 → exec (.l2LargePage d) s = .refused (.unpredictable .sbzNotZero))) ∧
    (s.cfg.sbzIgnored = true →
      (∀ d, exec (.l2LargePage d) s ≠ .refused (.unpredictable .sbzNotZero)) ∧
      (∀ d, exec (.l2SmallPage d) s ≠ .refused (.unpredictable .sbzNotZero)))

/-- R57, where it is checked: a Supersection or Large page whose word is not at all sixteen slots of its aligned group is refused
(the spec's own decision D21). A slot that gives no data counts as different: the model's reading, assumption log 13. -/
def Obligations.UnrepeatedDescriptorIsRefused : Prop :=
  ∀ (s : State), s.cfg.wf1Checked = true →
    (∀ (d : SupersectionDesc) (k : Nat), k < 16 →
      s.walkRead (clearBelow (l1DescAddr s.regs s.req.va) 6 + BitVec.ofNat 32 (4 * k))
        ≠ some (encode (.l1Supersection d)) →
      exec (.l1Supersection d) s = .refused (.unpredictable .repetition)) ∧
    (∀ (d : LargePageDesc) (k : Nat), k < 16 →
      pageTableSbzBad s.cfg s.parent = false → largePageSbzBad s.cfg d = false →
      s.walkRead (clearBelow (l2DescAddr s.parent s.req.va) 6 + BitVec.ofNat 32 (4 * k)) ≠ some (encode (.l2LargePage d)) →
      exec (.l2LargePage d) s = .refused (.unpredictable .repetition))

/-! ## The step -/

/-- A step runs the decoded descriptor: when the word at the address the walk needs decodes to `i`, the step is exec of `i` (at the
first level, when no kept translation answers, with the free choice counted; that counter is the model's own, log 12). -/
def Obligations.StepRunsTheDecodedDescriptor : Prop :=
  ∀ (s : State) (w : Word) (i : Instr), s.walkRead s.fetchAddr = some w →
    (s.walk = .first → s.tlbPick = none → decodeWord s.cfg .first w = .ok i → step s = exec i s.countChoice) ∧
    (s.walk = .second → decodeWord s.cfg .second w = .ok i → step s = exec i s) ∧
    (s.cfg.tlbModel = .staticTables → s.tlbPick = none ∧ s.countChoice = s)

/-- With no translation in progress the machine waits and changes nothing, from reset too: the model's reading of a machine that
only answers requests (R21), assumption log 24. -/
def Obligations.StepWaitsForARequest : Prop :=
  (∀ s : State, s.walk = .idle → step s = .next s) ∧ step State.reset = .next State.reset

/-- R175: a walk read that gets no data ends the translation with `ExternalAbortOnWalk` at the level of the descriptor being read
and no domain. The kind is the spec's own decision D20. -/
def Obligations.FailedWalkReadIsAnExternalAbort : Prop :=
  ∀ s : State, s.walkRead s.fetchAddr = none →
    (s.walk = .first → s.tlbPick = none →
      step s = .next { s.countChoice with result := some (.fault .externalAbortOnWalk .first none), walk := .idle }) ∧
    (s.walk = .second →
      step s = .next { s with result := some (.fault .externalAbortOnWalk .second none), walk := .idle })

/-- R66 (a): where PXN is not supported, a first-level word with bits[1:0] = 0b11 is refused by name, or raises the Translation
fault at level 1, as the parameter says (the spec's own decision D13). -/
def Obligations.ReservedFirstLevelType : Prop :=
  ∀ (s : State) (w : Word), s.walk = .first → s.tlbPick = none → s.walkRead s.fetchAddr = some w →
    s.cfg.pxnSupported = false → w.extractLsb 1 0 = 0b11#2 →
    (s.cfg.l1Type3NoPxn = .refuse → step s = .refused (.unpredictable .l1Type0b11WithoutPxn)) ∧
    (s.cfg.l1Type3NoPxn = .translationFault →
      step s = .next { s.countChoice with result := some (.fault .translation .first none), walk := .idle })

/-- R56, R20: a kept record answers for an address in its block, with steps 4 to 6 of `Translate` run afresh against the registers
of now: each of their outcomes, the Access flag fault, the Domain fault, the refused Reserved setting, the Permission fault and the
refused AP value in a Client domain, and `Ok`. No record answers where the tables are static. How records are kept and picked, and
that the free choice is counted, is the model's, assumption log 12; the order of the checks is the spec's own decision D6. -/
def Obligations.KeptTranslationIsCheckedAfresh : Prop :=
  ∀ (s : State) (e : TlbEntry), s.walk = .first → s.tlbPick = some e →
    s.cfg.tlbModel = .nondeterministicCache ∧ e ∈ s.tlb ∧
    s.req.va >>> blockBits e.leaf.attrs.size <<< blockBits e.leaf.attrs.size = e.vaBase ∧
    (accessPermitted s e.leaf.attrs →
      step s = .next { s.countChoice with
        result := some (.ok (e.leafFor s.req.va).pa (if s.secure then e.leaf.ns else true) e.leaf.attrs), walk := .idle }) ∧
    (accessFlagClear s.regs e.leaf.attrs = false → checkDomain s.regs e.leaf.attrs.domain = .noAccess →
      step s = .next { s.countChoice with
        result := some (.fault .domain e.leaf.attrs.level (some e.leaf.attrs.domain)), walk := .idle }) ∧
    (sctlrAfe s.regs = true → e.leaf.attrs.ap.getLsbD 0 = false →
      step s = .next { s.countChoice with
        result := some (.fault .accessFlag e.leaf.attrs.level (some e.leaf.attrs.domain)), walk := .idle }) ∧
    (accessFlagClear s.regs e.leaf.attrs = false → checkDomain s.regs e.leaf.attrs.domain = .client →
      checkPermission s.regs e.leaf.attrs s.req.kind s.req.pl = .denied →
      step s = .next { s.countChoice with
        result := some (.fault .permission e.leaf.attrs.level (some e.leaf.attrs.domain)), walk := .idle }) ∧
    (accessFlagClear s.regs e.leaf.attrs = false → checkDomain s.regs e.leaf.attrs.domain = .reserved →
      step s = .refused (.unpredictable .dacrField0b10)) ∧
    (accessFlagClear s.regs e.leaf.attrs = false → checkDomain s.regs e.leaf.attrs.domain = .client →
      checkPermission s.regs e.leaf.attrs s.req.kind s.req.pl = .reserved →
      step s = .refused (.unpredictable .ap0b100))

/-- R56, R43: with nondeterministic_cache each of the four mapping descriptors that passes step 3 of `Translate` leaves in the set a
record whose block contains the address and whose leaf at that address is the leaf the walk produced; nothing else enters the set.
That the record is made whether or not a later check faults, and that no record is lost, is the model's choice, assumption
log 12. -/
def Obligations.MappingLeavesAKeptRecord : Prop :=
  ∀ (i : Instr) (s t : State) (l : Leaf), s.cfg.tlbModel = .nondeterministicCache →
    mappedLeaf s i = some l → passesStep3 s i = true → exec i s = .next t →
      ∃ e ∈ t.tlb, e.covers s.req.va = true ∧ e.leafFor s.req.va = l ∧
        (∀ e' ∈ t.tlb, e' = e ∨ e' ∈ s.tlb) ∧ ∀ e' ∈ s.tlb, e' ∈ t.tlb

/-- The step after reset with a descriptor's word in the fetch place runs that descriptor (the interface to the outside of assumption
log 4; words are read at the first level, log 5; the word placed is what the read sees, log 26). -/
def Obligations.PlacedWordIsRunFirst : Prop :=
  ∀ (nbits w : Nat) (i : Instr), decodeTableWord nbits w = some i →
    step (State.reset.withFetchWord nbits w) = exec i (State.reset.withFetchWord nbits w)

/-- R10, R84, R181: no step writes a control register, memory, a parameter or the request; where the tables are static nothing is
kept either. That no kept record is ever lost is the model's choice, assumption log 12: R20 is silent on when one is dropped. -/
def Obligations.StepWritesNoArchitecturalState : Prop :=
  ∀ s t : State, step s = .next t →
    t.cfg = s.cfg ∧ t.regsS = s.regsS ∧ t.regsNS = s.regsNS ∧ t.memS = s.memS ∧ t.memNS = s.memNS ∧ t.req = s.req ∧
    (s.cfg.tlbModel = .staticTables → t.tlb = s.tlb ∧ t.freeCount = s.freeCount) ∧
    (∀ e ∈ s.tlb, e ∈ t.tlb)

/-- R203: one table-walk read for a first-level Fault, Section or Supersection, two for a Page table descriptor: the first step
leaves a second read to do exactly when it read a Page table descriptor, and the second step always ends the translation. A kept
record that answers (R56) ends the translation in the first step, with no read at all. -/
def Obligations.OneOrTwoWalkReads : Prop :=
  ∀ s t : State, step s = .next t →
    (s.walk = .first → s.tlbPick = none →
      (t.walk = .second ↔ ∃ w d, s.walkRead s.fetchAddr = some w ∧ decodeWord s.cfg .first w = .ok (.l1PageTable d))) ∧
    (s.walk = .first → t.walk = .second ∨ (t.walk = .idle ∧ t.result.isSome = true)) ∧
    (∀ e, s.walk = .first → s.tlbPick = some e → t.walk = .idle ∧ t.result.isSome = true) ∧
    (s.walk = .second → t.walk = .idle ∧ t.result.isSome = true)

/-! ## Invariants and whole translations -/

/-- The invariant of the state (canonical memory, kept records that a descriptor can give, no answer while a translation is in
progress, answers of the shape of R8, R41, R48, R108, R109, R170) is kept by every step from every state that has it. -/
def Obligations.StepKeepsTheInvariant : Prop :=
  ∀ s t : State, s.Inv → step s = .next t → t.Inv

/-- The invariant holds at reset, and when a request is presented to a state that has it. The spec leaves every reset value
unspecified (R23, R200): the reset state is the model's choice, assumption logs 2, 3 and 12. -/
def Obligations.InvariantHoldsAtReset : Prop :=
  State.reset.Inv ∧ ∀ (s : State) (req : Request), s.Inv → (s.present req).Inv

/-- R49: the steps of the machine compute `Translate(req)`, which is written over the raw words: with static tables, the one or two
steps of a translation answer exactly what the rule says, refusals included. -/
def Obligations.StepsComputeTranslate : Prop :=
  ∀ s : State, s.walk = .first → s.cfg.tlbModel = .staticTables → answerOf (serve s) = some (translateReq s)

/-- D8: where what is kept agrees with the tables, keeping translations is unobservable: whatever the free choice, the answer is that
of `Translate` from the tables. -/
def Obligations.KeptTranslationsAreUnobservable : Prop :=
  ∀ s : State, s.walk = .first → s.Coherent → answerOf (serve s) = some (translateReq s)

/-- Agreement with the tables is kept by every step where the repetition of R57 is checked: a record kept for one address of a block
is right for every address of it. -/
def Obligations.StepKeepsKeptTranslationsCoherent : Prop :=
  ∀ s t : State, s.cfg.wf1Checked = true → s.Coherent → step s = .next t → t.Coherent

/-- In the model's reset state nothing is kept, so what is kept agrees with the tables; the same when a request is presented to any
state in which nothing is kept. R23 leaves the TLB unspecified at reset: that it is empty is the model's choice (unsafe),
assumption log 12. -/
def Obligations.NothingKeptIsCoherent : Prop :=
  State.reset.Coherent ∧ ∀ (s : State) (req : Request), s.tlb = [] → (s.present req).Coherent

/-- R201: where software has met its obligations, no step is refused, and the obligations still stand after the step; they stand
after a new request from the same security state too, and so no run of any length is refused. -/
def Obligations.ObligedSoftwareIsNeverRefused : Prop :=
  ∀ s : State, s.Setup →
    (∃ t : State, step s = .next t ∧ t.Setup) ∧
    (∀ req : Request, req.secure = s.req.secure → (s.present req).Setup) ∧
    ∀ k : Nat, ∃ t : State, Sys2Proof.core.run k s = .next t

/-- R49 step 5, R111, R144, R154: whenever a step ends a translation with `Ok`, from the tables or from a kept record, the Access flag
did not fault and the domain is Manager, or Client with the permission granted, in the registers of now. -/
def Obligations.OkOnlyWhenPermitted : Prop :=
  ∀ (s t : State) (pa : PhysAddr) (ns : Bool) (a : Attrs), s.walk ≠ .idle → step s = .next t → t.walk = .idle →
    t.result = some (.ok pa ns a) → accessPermitted s a

/-- R49 "Reads", R25, R186: `Translate` depends on nothing but the parameters, the request, the address map of its security state,
and AFE, N, the base fields and the DACR of the register set of that state: not on what is kept, the other set or map, the other
bits of SCTLR and TTBCR, or the bits of TTBR0 and TTBR1 below the base. -/
def Obligations.TranslateReadsOnlyWhatItLists : Prop :=
  ∀ s s' : State, s'.cfg = s.cfg → s'.req = s.req → s'.walkMem = s.walkMem →
    sctlrAfe s'.regs = sctlrAfe s.regs → ttbcrN s'.regs = ttbcrN s.regs → s'.regs.dacr = s.regs.dacr →
    s'.regs.ttbr0 >>> (14 - ttbcrN s.regs) = s.regs.ttbr0 >>> (14 - ttbcrN s.regs) →
    s'.regs.ttbr1 >>> 14 = s.regs.ttbr1 >>> 14 →
      translateReq s' = translateReq s

/-- R43, R50: the low 12 bits of the address pass through: two addresses of one 4 KByte page get the same result but for those bits
of the physical address. The identity of the low bits is general knowledge that the spec adopts (G7). -/
def Obligations.LowAddressBitsPassThrough : Prop :=
  ∀ (s : State) (va : Word), va >>> 12 = s.req.va >>> 12 →
    translateReq (s.atVa va) =
      match translateReq s with
      | .responds (.ok pa ns a) => .responds (.ok (pa >>> 12 <<< 12 ||| (va.setWidth 12).setWidth 40) ns a)
      | other => other

/-- R202 H-c, R20: a DACR written by software applies to the next translation, at once: the walk is the same and the leaf is checked
against the new value. Whether a synchronising operation is needed is not in the source; that none is needed is the spec's own
reading. -/
def Obligations.NewDacrAppliesAtOnce : Prop :=
  ∀ (s : State) (v : Word),
    walkLeaf (s.writeReg s.secure .dacr v) = walkLeaf s ∧
    translateReq (s.writeReg s.secure .dacr v) =
      match walkLeaf s with
      | .leaf l => checkLeaf { s.regs with dacr := v } s.req s.secure l
      | .stop t => t

/-- R186, R46: with the Security Extensions `Translate` of a Non-secure request, from the tables, depends on the Non-secure registers
and map alone, and its `Ok` is in the Non-secure map; that of every other request, on the Secure ones. With static tables the
machine's own steps answer so too. With kept translations they need not: a record kept for a Secure request may answer a Non-secure
one (assumption log 12). One set of register values per security state is what R186 admits (assumption log 10); the map of the walk
is general knowledge that the spec adopts (G9), and so is the map of the result (G6). -/
def Obligations.TranslationFromTablesReadsOneSecurityState : Prop :=
  ∀ s s' : State, s'.cfg = s.cfg → s'.req = s.req →
    (s.cfg.securityExt = true → s.req.secure = false → s'.regsNS = s.regsNS → s'.memNS = s.memNS →
      translateReq s' = translateReq s ∧
      ∀ pa ns a, translateReq s = .responds (.ok pa ns a) → ns = true) ∧
    (s.cfg.securityExt = false ∨ s.req.secure = true → s'.regsS = s.regsS → s'.memS = s.memS →
      translateReq s' = translateReq s) ∧
    (s.cfg.tlbModel = .staticTables → s.walk = .first → s'.walk = .first →
      (s.cfg.securityExt = true → s.req.secure = false → s'.regsNS = s.regsNS → s'.memNS = s.memNS →
        answerOf (serve s') = answerOf (serve s)) ∧
      (s.cfg.securityExt = false ∨ s.req.secure = true → s'.regsS = s.regsS → s'.memS = s.memS →
        answerOf (serve s') = answerOf (serve s)))

/-! ## Memory -/

/-- A walk read (R46, in either byte order of R47) at an aligned address returns the word that software stored there in the map of the
request's security state. That the store is seen by the very next read is the model's choice, assumption log 26: R53 admits an older
value and R54 gives no premise. The map of the read is the spec's own (D22, G9). -/
def Obligations.StoredWordIsRead : Prop :=
  ∀ (s : State) (x w : Word), x.toNat % 4 = 0 → (s.storeWord s.secure (x.setWidth 40) w).walkRead x = some w

/-- A store leaves every other aligned word as it was, and a store in one address map (R42) leaves the words of the other, at any
alignment (software's stores are the model's own operation, assumption logs 22 and 26). -/
def Obligations.StoreLeavesOtherWords : Prop :=
  ∀ (s : State) (x y w : Word),
    (x.toNat % 4 = 0 → y.toNat % 4 = 0 → x ≠ y →
      (s.storeWord s.secure (x.setWidth 40) w).walkRead y = s.walkRead y) ∧
    (s.storeWord (!s.secure) (x.setWidth 40) w).walkRead y = s.walkRead y
end

