-- ==== Sys2Proof/Laws/Decode.lean ====
section
/-! SUPPORT. The inversion of the decoder: what a word must be when it reads as a descriptor, and when it reads as none. -/

namespace Sys2Proof

/-- All that the first-level decoder can answer, with the bits each answer rests on (R61). -/
theorem decodeFirst_cases (cfg : Config) (w : Word) :
    (bitAt w 1 = false ∧ bitAt w 0 = false ∧ decodeFirst cfg w = .ok (.l1Fault (fieldAt w 2 30))) ∨
    (bitAt w 1 = false ∧ bitAt w 0 = true ∧ decodeFirst cfg w = .ok (.l1PageTable (pageTableOfWord w))) ∨
    (bitAt w 1 = true ∧ (bitAt w 0 = false ∨ cfg.pxnSupported = true) ∧ bitAt w 18 = false ∧
      decodeFirst cfg w = .ok (.l1Section (sectionOfWord w))) ∨
    (bitAt w 1 = true ∧ (bitAt w 0 = false ∨ cfg.pxnSupported = true) ∧ bitAt w 18 = true ∧
      decodeFirst cfg w = .ok (.l1Supersection (supersectionOfWord w))) ∨
    (bitAt w 1 = true ∧ bitAt w 0 = true ∧ cfg.pxnSupported = false ∧ decodeFirst cfg w = .error .l1Reserved) := by
  unfold decodeFirst
  cases bitAt w 1 <;> cases bitAt w 0 <;> cases bitAt w 18 <;> cases cfg.pxnSupported <;> simp

/-- All that the second-level decoder can answer, with the bits each answer rests on (R67). -/
theorem decodeSecond_cases (w : Word) :
    (bitAt w 1 = false ∧ bitAt w 0 = false ∧ decodeSecond w = .l2Fault (fieldAt w 2 30)) ∨
    (bitAt w 1 = false ∧ bitAt w 0 = true ∧ decodeSecond w = .l2LargePage (largePageOfWord w)) ∨
    (bitAt w 1 = true ∧ decodeSecond w = .l2SmallPage (smallPageOfWord w)) := by
  unfold decodeSecond
  cases bitAt w 1 <;> cases bitAt w 0 <;> simp

end Sys2Proof
end

