-- ==== Sys2Proof/Laws/State.lean ====
section
/-! SUPPORT. One lemma per field for every update of the state, so that no proof unfolds a record update. -/

namespace Sys2Proof.Machine

@[simp] theorem State.answer_cfg (s : State) (r : Response) : (s.answer r).cfg = s.cfg := rfl
@[simp] theorem State.answer_regsS (s : State) (r : Response) : (s.answer r).regsS = s.regsS := rfl
@[simp] theorem State.answer_regsNS (s : State) (r : Response) : (s.answer r).regsNS = s.regsNS := rfl
@[simp] theorem State.answer_memS (s : State) (r : Response) : (s.answer r).memS = s.memS := rfl
@[simp] theorem State.answer_memNS (s : State) (r : Response) : (s.answer r).memNS = s.memNS := rfl
@[simp] theorem State.answer_tlb (s : State) (r : Response) : (s.answer r).tlb = s.tlb := rfl
@[simp] theorem State.answer_req (s : State) (r : Response) : (s.answer r).req = s.req := rfl
@[simp] theorem State.answer_walk (s : State) (r : Response) : (s.answer r).walk = .idle := rfl
@[simp] theorem State.answer_parent (s : State) (r : Response) : (s.answer r).parent = s.parent := rfl
@[simp] theorem State.answer_result (s : State) (r : Response) : (s.answer r).result = some r := rfl
@[simp] theorem State.answer_freeCount (s : State) (r : Response) : (s.answer r).freeCount = s.freeCount := rfl

@[simp] theorem State.present_cfg (s : State) (r : Request) : (s.present r).cfg = s.cfg := rfl
@[simp] theorem State.present_regsS (s : State) (r : Request) : (s.present r).regsS = s.regsS := rfl
@[simp] theorem State.present_regsNS (s : State) (r : Request) : (s.present r).regsNS = s.regsNS := rfl
@[simp] theorem State.present_memS (s : State) (r : Request) : (s.present r).memS = s.memS := rfl
@[simp] theorem State.present_memNS (s : State) (r : Request) : (s.present r).memNS = s.memNS := rfl
@[simp] theorem State.present_tlb (s : State) (r : Request) : (s.present r).tlb = s.tlb := rfl
@[simp] theorem State.present_req (s : State) (r : Request) : (s.present r).req = r := rfl
@[simp] theorem State.present_walk (s : State) (r : Request) : (s.present r).walk = .first := rfl
@[simp] theorem State.present_parent (s : State) (r : Request) : (s.present r).parent = s.parent := rfl
@[simp] theorem State.present_result (s : State) (r : Request) : (s.present r).result = none := rfl
@[simp] theorem State.present_freeCount (s : State) (r : Request) : (s.present r).freeCount = s.freeCount := rfl

@[simp] theorem State.atVa_cfg (s : State) (va : Word) : (s.atVa va).cfg = s.cfg := rfl
@[simp] theorem State.atVa_regsS (s : State) (va : Word) : (s.atVa va).regsS = s.regsS := rfl
@[simp] theorem State.atVa_regsNS (s : State) (va : Word) : (s.atVa va).regsNS = s.regsNS := rfl
@[simp] theorem State.atVa_memS (s : State) (va : Word) : (s.atVa va).memS = s.memS := rfl
@[simp] theorem State.atVa_memNS (s : State) (va : Word) : (s.atVa va).memNS = s.memNS := rfl
@[simp] theorem State.atVa_tlb (s : State) (va : Word) : (s.atVa va).tlb = s.tlb := rfl
@[simp] theorem State.atVa_req (s : State) (va : Word) : (s.atVa va).req = { s.req with va := va } := rfl
@[simp] theorem State.atVa_walk (s : State) (va : Word) : (s.atVa va).walk = s.walk := rfl
@[simp] theorem State.atVa_parent (s : State) (va : Word) : (s.atVa va).parent = s.parent := rfl
@[simp] theorem State.atVa_result (s : State) (va : Word) : (s.atVa va).result = s.result := rfl
@[simp] theorem State.atVa_freeCount (s : State) (va : Word) : (s.atVa va).freeCount = s.freeCount := rfl

theorem State.keep_of_static (s : State) (l : Leaf) (h : s.cfg.tlbModel = .staticTables) : s.keep l = s := by
  unfold State.keep; rw [h]

/-- All that keeping a leaf can do: nothing, or one record more. -/
theorem State.keep_cases (s : State) (l : Leaf) :
    s.keep l = s ∨
      (s.cfg.tlbModel = .nondeterministicCache ∧ tlbEntryOf s.req.va l ∉ s.tlb
        ∧ s.keep l = { s with tlb := tlbEntryOf s.req.va l :: s.tlb }) := by
  unfold State.keep
  cases hm : s.cfg.tlbModel with
  | staticTables => exact .inl rfl
  | nondeterministicCache =>
    by_cases h : tlbEntryOf s.req.va l ∈ s.tlb
    · exact .inl (if_pos h)
    · exact .inr ⟨rfl, h, if_neg h⟩

theorem State.mem_keep_tlb (s : State) (l : Leaf) (e : TlbEntry) (h : e ∈ (s.keep l).tlb) :
    e ∈ s.tlb ∨ e = tlbEntryOf s.req.va l := by
  rcases s.keep_cases l with hk | ⟨_, _, hk⟩ <;> rw [hk] at h
  · exact .inl h
  · exact (List.mem_cons.mp h).symm

/-- Keeping a leaf loses no record. -/
theorem State.subset_keep_tlb (s : State) (l : Leaf) (e : TlbEntry) (h : e ∈ s.tlb) : e ∈ (s.keep l).tlb := by
  rcases s.keep_cases l with hk | ⟨_, _, hk⟩ <;> rw [hk]
  · exact h
  · exact List.mem_cons_of_mem _ h

/-- Where translations are kept, the record of the leaf is in the set afterwards. -/
theorem State.tlbEntryOf_mem_keep (s : State) (l : Leaf) (h : s.cfg.tlbModel = .nondeterministicCache) :
    tlbEntryOf s.req.va l ∈ (s.keep l).tlb := by
  unfold State.keep
  rw [h]
  by_cases hm : tlbEntryOf s.req.va l ∈ s.tlb
  · simp [hm]
  · simp [hm]

/-- The block of a record contains the address it was made for. -/
@[simp] theorem tlbEntryOf_covers (va : Word) (l : Leaf) : (tlbEntryOf va l).covers va = true := by
  simp [TlbEntry.covers, tlbEntryOf]

@[simp] theorem State.keep_cfg (s : State) (l : Leaf) : (s.keep l).cfg = s.cfg := by
  rcases s.keep_cases l with h | ⟨_, _, h⟩ <;> rw [h]
@[simp] theorem State.keep_regsS (s : State) (l : Leaf) : (s.keep l).regsS = s.regsS := by
  rcases s.keep_cases l with h | ⟨_, _, h⟩ <;> rw [h]
@[simp] theorem State.keep_regsNS (s : State) (l : Leaf) : (s.keep l).regsNS = s.regsNS := by
  rcases s.keep_cases l with h | ⟨_, _, h⟩ <;> rw [h]
@[simp] theorem State.keep_memS (s : State) (l : Leaf) : (s.keep l).memS = s.memS := by
  rcases s.keep_cases l with h | ⟨_, _, h⟩ <;> rw [h]
@[simp] theorem State.keep_memNS (s : State) (l : Leaf) : (s.keep l).memNS = s.memNS := by
  rcases s.keep_cases l with h | ⟨_, _, h⟩ <;> rw [h]
@[simp] theorem State.keep_req (s : State) (l : Leaf) : (s.keep l).req = s.req := by
  rcases s.keep_cases l with h | ⟨_, _, h⟩ <;> rw [h]
@[simp] theorem State.keep_walk (s : State) (l : Leaf) : (s.keep l).walk = s.walk := by
  rcases s.keep_cases l with h | ⟨_, _, h⟩ <;> rw [h]
@[simp] theorem State.keep_parent (s : State) (l : Leaf) : (s.keep l).parent = s.parent := by
  rcases s.keep_cases l with h | ⟨_, _, h⟩ <;> rw [h]
@[simp] theorem State.keep_result (s : State) (l : Leaf) : (s.keep l).result = s.result := by
  rcases s.keep_cases l with h | ⟨_, _, h⟩ <;> rw [h]
@[simp] theorem State.keep_freeCount (s : State) (l : Leaf) : (s.keep l).freeCount = s.freeCount := by
  rcases s.keep_cases l with h | ⟨_, _, h⟩ <;> rw [h]

theorem State.countChoice_of_static (s : State) (h : s.cfg.tlbModel = .staticTables) : s.countChoice = s := by
  unfold State.countChoice; rw [h]

@[simp] theorem State.countChoice_cfg (s : State) : s.countChoice.cfg = s.cfg := by
  unfold State.countChoice; split <;> rfl
@[simp] theorem State.countChoice_regsS (s : State) : s.countChoice.regsS = s.regsS := by
  unfold State.countChoice; split <;> rfl
@[simp] theorem State.countChoice_regsNS (s : State) : s.countChoice.regsNS = s.regsNS := by
  unfold State.countChoice; split <;> rfl
@[simp] theorem State.countChoice_memS (s : State) : s.countChoice.memS = s.memS := by
  unfold State.countChoice; split <;> rfl
@[simp] theorem State.countChoice_memNS (s : State) : s.countChoice.memNS = s.memNS := by
  unfold State.countChoice; split <;> rfl
@[simp] theorem State.countChoice_tlb (s : State) : s.countChoice.tlb = s.tlb := by
  unfold State.countChoice; split <;> rfl
@[simp] theorem State.countChoice_req (s : State) : s.countChoice.req = s.req := by
  unfold State.countChoice; split <;> rfl
@[simp] theorem State.countChoice_walk (s : State) : s.countChoice.walk = s.walk := by
  unfold State.countChoice; split <;> rfl
@[simp] theorem State.countChoice_parent (s : State) : s.countChoice.parent = s.parent := by
  unfold State.countChoice; split <;> rfl
@[simp] theorem State.countChoice_result (s : State) : s.countChoice.result = s.result := by
  unfold State.countChoice; split <;> rfl

@[simp] theorem State.writeReg_cfg (s : State) (b : Bool) (n : ControlReg) (v : Word) :
    (s.writeReg b n v).cfg = s.cfg := by
  cases b <;> rfl
@[simp] theorem State.writeReg_memS (s : State) (b : Bool) (n : ControlReg) (v : Word) :
    (s.writeReg b n v).memS = s.memS := by
  cases b <;> rfl
@[simp] theorem State.writeReg_memNS (s : State) (b : Bool) (n : ControlReg) (v : Word) :
    (s.writeReg b n v).memNS = s.memNS := by
  cases b <;> rfl
@[simp] theorem State.writeReg_tlb (s : State) (b : Bool) (n : ControlReg) (v : Word) :
    (s.writeReg b n v).tlb = s.tlb := by
  cases b <;> rfl
@[simp] theorem State.writeReg_req (s : State) (b : Bool) (n : ControlReg) (v : Word) :
    (s.writeReg b n v).req = s.req := by
  cases b <;> rfl
@[simp] theorem State.writeReg_walk (s : State) (b : Bool) (n : ControlReg) (v : Word) :
    (s.writeReg b n v).walk = s.walk := by
  cases b <;> rfl
@[simp] theorem State.writeReg_parent (s : State) (b : Bool) (n : ControlReg) (v : Word) :
    (s.writeReg b n v).parent = s.parent := by
  cases b <;> rfl
@[simp] theorem State.writeReg_result (s : State) (b : Bool) (n : ControlReg) (v : Word) :
    (s.writeReg b n v).result = s.result := by
  cases b <;> rfl
@[simp] theorem State.writeReg_freeCount (s : State) (b : Bool) (n : ControlReg) (v : Word) :
    (s.writeReg b n v).freeCount = s.freeCount := by
  cases b <;> rfl
@[simp] theorem State.writeReg_true_regsS (s : State) (n : ControlReg) (v : Word) :
    (s.writeReg true n v).regsS = s.regsS.write n v := rfl
@[simp] theorem State.writeReg_true_regsNS (s : State) (n : ControlReg) (v : Word) :
    (s.writeReg true n v).regsNS = s.regsNS := rfl
@[simp] theorem State.writeReg_false_regsS (s : State) (n : ControlReg) (v : Word) :
    (s.writeReg false n v).regsS = s.regsS := rfl
@[simp] theorem State.writeReg_false_regsNS (s : State) (n : ControlReg) (v : Word) :
    (s.writeReg false n v).regsNS = s.regsNS.write n v := rfl

@[simp] theorem State.storeWord_cfg (s : State) (b : Bool) (a : PhysAddr) (w : Word) :
    (s.storeWord b a w).cfg = s.cfg := by
  cases b <;> rfl
@[simp] theorem State.storeWord_regsS (s : State) (b : Bool) (a : PhysAddr) (w : Word) :
    (s.storeWord b a w).regsS = s.regsS := by
  cases b <;> rfl
@[simp] theorem State.storeWord_regsNS (s : State) (b : Bool) (a : PhysAddr) (w : Word) :
    (s.storeWord b a w).regsNS = s.regsNS := by
  cases b <;> rfl
@[simp] theorem State.storeWord_tlb (s : State) (b : Bool) (a : PhysAddr) (w : Word) :
    (s.storeWord b a w).tlb = s.tlb := by
  cases b <;> rfl
@[simp] theorem State.storeWord_req (s : State) (b : Bool) (a : PhysAddr) (w : Word) :
    (s.storeWord b a w).req = s.req := by
  cases b <;> rfl
@[simp] theorem State.storeWord_walk (s : State) (b : Bool) (a : PhysAddr) (w : Word) :
    (s.storeWord b a w).walk = s.walk := by
  cases b <;> rfl
@[simp] theorem State.storeWord_parent (s : State) (b : Bool) (a : PhysAddr) (w : Word) :
    (s.storeWord b a w).parent = s.parent := by
  cases b <;> rfl
@[simp] theorem State.storeWord_result (s : State) (b : Bool) (a : PhysAddr) (w : Word) :
    (s.storeWord b a w).result = s.result := by
  cases b <;> rfl
@[simp] theorem State.storeWord_freeCount (s : State) (b : Bool) (a : PhysAddr) (w : Word) :
    (s.storeWord b a w).freeCount = s.freeCount := by
  cases b <;> rfl
@[simp] theorem State.storeWord_true_memS (s : State) (a : PhysAddr) (w : Word) :
    (s.storeWord true a w).memS = Memory.writeBytes s.memS a (bytesOfWord s.cfg.walkBigEndian w) := rfl
@[simp] theorem State.storeWord_true_memNS (s : State) (a : PhysAddr) (w : Word) :
    (s.storeWord true a w).memNS = s.memNS := rfl
@[simp] theorem State.storeWord_false_memS (s : State) (a : PhysAddr) (w : Word) :
    (s.storeWord false a w).memS = s.memS := rfl
@[simp] theorem State.storeWord_false_memNS (s : State) (a : PhysAddr) (w : Word) :
    (s.storeWord false a w).memNS = Memory.writeBytes s.memNS a (bytesOfWord s.cfg.walkBigEndian w) := rfl

@[simp] theorem ControlRegs.write_sctlr_sctlr (r : ControlRegs) (v : Word) : (r.write .sctlr v).sctlr = v := rfl
@[simp] theorem ControlRegs.write_sctlr_ttbr0 (r : ControlRegs) (v : Word) : (r.write .sctlr v).ttbr0 = r.ttbr0 := rfl
@[simp] theorem ControlRegs.write_sctlr_ttbr1 (r : ControlRegs) (v : Word) : (r.write .sctlr v).ttbr1 = r.ttbr1 := rfl
@[simp] theorem ControlRegs.write_sctlr_ttbcr (r : ControlRegs) (v : Word) : (r.write .sctlr v).ttbcr = r.ttbcr := rfl
@[simp] theorem ControlRegs.write_sctlr_dacr (r : ControlRegs) (v : Word) : (r.write .sctlr v).dacr = r.dacr := rfl
@[simp] theorem ControlRegs.write_ttbr0_sctlr (r : ControlRegs) (v : Word) : (r.write .ttbr0 v).sctlr = r.sctlr := rfl
@[simp] theorem ControlRegs.write_ttbr0_ttbr0 (r : ControlRegs) (v : Word) : (r.write .ttbr0 v).ttbr0 = v := rfl
@[simp] theorem ControlRegs.write_ttbr0_ttbr1 (r : ControlRegs) (v : Word) : (r.write .ttbr0 v).ttbr1 = r.ttbr1 := rfl
@[simp] theorem ControlRegs.write_ttbr0_ttbcr (r : ControlRegs) (v : Word) : (r.write .ttbr0 v).ttbcr = r.ttbcr := rfl
@[simp] theorem ControlRegs.write_ttbr0_dacr (r : ControlRegs) (v : Word) : (r.write .ttbr0 v).dacr = r.dacr := rfl
@[simp] theorem ControlRegs.write_ttbr1_sctlr (r : ControlRegs) (v : Word) : (r.write .ttbr1 v).sctlr = r.sctlr := rfl
@[simp] theorem ControlRegs.write_ttbr1_ttbr0 (r : ControlRegs) (v : Word) : (r.write .ttbr1 v).ttbr0 = r.ttbr0 := rfl
@[simp] theorem ControlRegs.write_ttbr1_ttbr1 (r : ControlRegs) (v : Word) : (r.write .ttbr1 v).ttbr1 = v := rfl
@[simp] theorem ControlRegs.write_ttbr1_ttbcr (r : ControlRegs) (v : Word) : (r.write .ttbr1 v).ttbcr = r.ttbcr := rfl
@[simp] theorem ControlRegs.write_ttbr1_dacr (r : ControlRegs) (v : Word) : (r.write .ttbr1 v).dacr = r.dacr := rfl
@[simp] theorem ControlRegs.write_ttbcr_sctlr (r : ControlRegs) (v : Word) : (r.write .ttbcr v).sctlr = r.sctlr := rfl
@[simp] theorem ControlRegs.write_ttbcr_ttbr0 (r : ControlRegs) (v : Word) : (r.write .ttbcr v).ttbr0 = r.ttbr0 := rfl
@[simp] theorem ControlRegs.write_ttbcr_ttbr1 (r : ControlRegs) (v : Word) : (r.write .ttbcr v).ttbr1 = r.ttbr1 := rfl
@[simp] theorem ControlRegs.write_ttbcr_ttbcr (r : ControlRegs) (v : Word) : (r.write .ttbcr v).ttbcr = v := rfl
@[simp] theorem ControlRegs.write_ttbcr_dacr (r : ControlRegs) (v : Word) : (r.write .ttbcr v).dacr = r.dacr := rfl
@[simp] theorem ControlRegs.write_dacr_sctlr (r : ControlRegs) (v : Word) : (r.write .dacr v).sctlr = r.sctlr := rfl
@[simp] theorem ControlRegs.write_dacr_ttbr0 (r : ControlRegs) (v : Word) : (r.write .dacr v).ttbr0 = r.ttbr0 := rfl
@[simp] theorem ControlRegs.write_dacr_ttbr1 (r : ControlRegs) (v : Word) : (r.write .dacr v).ttbr1 = r.ttbr1 := rfl
@[simp] theorem ControlRegs.write_dacr_ttbcr (r : ControlRegs) (v : Word) : (r.write .dacr v).ttbcr = r.ttbcr := rfl
@[simp] theorem ControlRegs.write_dacr_dacr (r : ControlRegs) (v : Word) : (r.write .dacr v).dacr = v := rfl

/-! The views that depend on the parameters, the registers, the memory and the request only. -/

@[simp] theorem State.answer_secure (s : State) (r : Response) : (s.answer r).secure = s.secure := by
  simp [State.secure]
@[simp] theorem State.answer_regs (s : State) (r : Response) : (s.answer r).regs = s.regs := by
  simp [State.regs]
@[simp] theorem State.answer_walkMem (s : State) (r : Response) : (s.answer r).walkMem = s.walkMem := by
  simp [State.walkMem]
@[simp] theorem State.answer_walkRead (s : State) (r : Response) (a : Word) : (s.answer r).walkRead a = s.walkRead a := by
  simp [State.walkRead]

@[simp] theorem State.keep_secure (s : State) (l : Leaf) : (s.keep l).secure = s.secure := by
  simp [State.secure]
@[simp] theorem State.keep_regs (s : State) (l : Leaf) : (s.keep l).regs = s.regs := by
  simp [State.regs]
@[simp] theorem State.keep_walkMem (s : State) (l : Leaf) : (s.keep l).walkMem = s.walkMem := by
  simp [State.walkMem]
@[simp] theorem State.keep_walkRead (s : State) (l : Leaf) (a : Word) : (s.keep l).walkRead a = s.walkRead a := by
  simp [State.walkRead]

@[simp] theorem State.countChoice_secure (s : State) : (s.countChoice).secure = s.secure := by
  simp [State.secure]
@[simp] theorem State.countChoice_regs (s : State) : (s.countChoice).regs = s.regs := by
  simp [State.regs]
@[simp] theorem State.countChoice_walkMem (s : State) : (s.countChoice).walkMem = s.walkMem := by
  simp [State.walkMem]
@[simp] theorem State.countChoice_walkRead (s : State) (a : Word) : (s.countChoice).walkRead a = s.walkRead a := by
  simp [State.walkRead]

@[simp] theorem State.atVa_secure (s : State) (va : Word) : (s.atVa va).secure = s.secure := by
  simp [State.secure]
@[simp] theorem State.atVa_regs (s : State) (va : Word) : (s.atVa va).regs = s.regs := by
  simp [State.regs]
@[simp] theorem State.atVa_walkMem (s : State) (va : Word) : (s.atVa va).walkMem = s.walkMem := by
  simp [State.walkMem]
@[simp] theorem State.atVa_walkRead (s : State) (va : Word) (a : Word) : (s.atVa va).walkRead a = s.walkRead a := by
  simp [State.walkRead]

@[simp] theorem State.keep_fetchAddr (s : State) (l : Leaf) : (s.keep l).fetchAddr = s.fetchAddr := by
  simp [State.fetchAddr]
@[simp] theorem State.keep_fetchWord (s : State) (l : Leaf) : (s.keep l).fetchWord = s.fetchWord := by
  simp [State.fetchWord]
@[simp] theorem State.keep_checked (s : State) (l : Leaf) (k : Leaf) : (s.keep l).checked k = s.checked k := by
  simp [State.checked]
@[simp] theorem State.countChoice_fetchAddr (s : State) : (s.countChoice).fetchAddr = s.fetchAddr := by
  simp [State.fetchAddr]
@[simp] theorem State.countChoice_fetchWord (s : State) : (s.countChoice).fetchWord = s.fetchWord := by
  simp [State.fetchWord]
@[simp] theorem State.countChoice_checked (s : State) (k : Leaf) : (s.countChoice).checked k = s.checked k := by
  simp [State.checked]

end Sys2Proof.Machine
end

