-- ==== Sys2Proof/Laws/Memory.lean ====
section
/-! SUPPORT. The basic laws of memory: a read after a write, and the canonical form kept by every operation. -/

namespace Sys2Proof.Machine

theorem Memory.read_write_same (m : Memory) (a : Nat) (v : Byte) : Memory.read (Memory.write m a v) a = some v := by
  induction m with
  | nil => simp [Memory.write, Memory.read]
  | cons x rest ih =>
    obtain ⟨b, u⟩ := x
    simp only [Memory.write]
    split
    · simp [Memory.read]
    · split
      · simp [Memory.read]
      · next _ h => simp [Memory.read, h, ih]

theorem Memory.read_write_other (m : Memory) (a c : Nat) (v : Byte) (h : c ≠ a) :
    Memory.read (Memory.write m a v) c = Memory.read m c := by
  induction m with
  | nil => simp [Memory.write, Memory.read, h]
  | cons x rest ih =>
    obtain ⟨b, u⟩ := x
    simp only [Memory.write]
    split
    · simp [Memory.read, h]
    · split
      · next _ hab => subst hab; simp [Memory.read, h]
      · simp [Memory.read, ih]

/-- What is listed after a write: what was, and the byte written. -/
theorem Memory.mem_write (m : Memory) (a : Nat) (v : Byte) (x : Host.Cell) (h : x ∈ Memory.write m a v) :
    x = (a, v) ∨ x ∈ m := by
  induction m with
  | nil => simpa [Memory.write] using h
  | cons y rest ih =>
    obtain ⟨b, u⟩ := y
    simp only [Memory.write] at h
    split at h
    · simpa using h
    · split at h
      · rcases List.mem_cons.mp h with h | h
        · exact .inl h
        · exact .inr (List.mem_cons_of_mem _ h)
      · rcases List.mem_cons.mp h with h | h
        · exact .inr (h ▸ List.mem_cons_self)
        · exact (ih h).imp_right (List.mem_cons_of_mem _)

theorem Memory.write_keeps_wf (m : Memory) (a : Nat) (v : Byte) (ha : a < 2 ^ 40) (h : Memory.wf m) :
    Memory.wf (Memory.write m a v) := by
  refine ⟨?_, fun x hx => ?_⟩
  · have hs := h.1
    clear h
    induction m with
    | nil => simp [Memory.write]
    | cons y rest ih =>
      obtain ⟨b, u⟩ := y
      obtain ⟨hb, hr⟩ := List.pairwise_cons.mp hs
      simp only [Memory.write]
      split
      · next hlt =>
        refine List.pairwise_cons.mpr ⟨fun x hx => ?_, hs⟩
        rcases List.mem_cons.mp hx with rfl | hx
        · exact hlt
        · exact Nat.lt_trans hlt (hb x hx)
      · split
        · next _ hab => subst hab; exact List.pairwise_cons.mpr ⟨hb, hr⟩
        · refine List.pairwise_cons.mpr ⟨fun x hx => ?_, ih hr⟩
          rcases Memory.mem_write rest a v x hx with rfl | hx
          · show b < a; omega
          · exact hb x hx
  · rcases Memory.mem_write m a v x hx with rfl | hx
    · exact ha
    · exact h.2 x hx

theorem Memory.writeBytes_keeps_wf (bs : List Byte) (m : Memory) (a : PhysAddr) (h : Memory.wf m) :
    Memory.wf (Memory.writeBytes m a bs) := by
  induction bs generalizing m a with
  | nil => exact h
  | cons v rest ih => exact ih _ _ (Memory.write_keeps_wf m a.toNat v a.isLt h)

theorem State.storeWord_keeps_wf (s : State) (b : Bool) (a : PhysAddr) (w : Word)
    (h : Memory.wf s.memS ∧ Memory.wf s.memNS) :
    Memory.wf (s.storeWord b a w).memS ∧ Memory.wf (s.storeWord b a w).memNS := by
  cases b
  · exact ⟨h.1, Memory.writeBytes_keeps_wf _ _ _ h.2⟩
  · exact ⟨Memory.writeBytes_keeps_wf _ _ _ h.1, h.2⟩

theorem State.withFetchWord_keeps_wf (s : State) (nbits w : Nat) (h : Memory.wf s.memS ∧ Memory.wf s.memNS) :
    Memory.wf (s.withFetchWord nbits w).memS ∧ Memory.wf (s.withFetchWord nbits w).memNS := by
  refine State.storeWord_keeps_wf _ _ _ _ ?_
  unfold State.inProgress
  split <;> exact h

theorem reset_memory_wf : Memory.wf State.reset.memS ∧ Memory.wf State.reset.memNS := by decide

end Sys2Proof.Machine
end

