-- ==== Sys2Proof/Laws/Ops.lean ====
section
/-! SUPPORT. One lemma for each shared operation that says all it can do when it answers a next state, and the inversion of the
step. -/

namespace Sys2Proof.Machine

@[simp] theorem raise_eq (s : State) (k : FaultKind) (l : Level) (d : Option (BitVec 4)) :
    s.raise k l d = .next (s.answer (.fault k l d)) := rfl

@[simp] theorem conclude_responds (s : State) (r : Response) : s.conclude (.responds r) = .next (s.answer r) := rfl

@[simp] theorem conclude_unpredictable (s : State) (w : Unpredictable) :
    s.conclude (.unpredictable w) = .refused (.unpredictable w) := rfl

theorem conclude_next {s t : State} {x : Translation} (h : s.conclude x = .next t) :
    ∃ r, x = .responds r ∧ t = s.answer r := by
  cases x with
  | responds r => exact ⟨r, rfl, by simpa using h.symm⟩
  | unpredictable w => cases h

/-- All that steps 4 to 6 can answer on a leaf, with what each answer rests on (R49, R180). -/
theorem checkLeaf_cases (r : ControlRegs) (req : Request) (secure : Bool) (l : Leaf) :
    (accessFlagClear r l.attrs = true ∧
      checkLeaf r req secure l = .responds (.fault .accessFlag l.attrs.level (some l.attrs.domain))) ∨
    (accessFlagClear r l.attrs = false ∧ checkDomain r l.attrs.domain = .noAccess ∧
      checkLeaf r req secure l = .responds (.fault .domain l.attrs.level (some l.attrs.domain))) ∨
    (accessFlagClear r l.attrs = false ∧ checkDomain r l.attrs.domain = .reserved ∧
      checkLeaf r req secure l = .unpredictable .dacrField0b10) ∨
    (accessFlagClear r l.attrs = false ∧ checkDomain r l.attrs.domain = .manager ∧
      checkLeaf r req secure l = .responds (okResponse secure l)) ∨
    (accessFlagClear r l.attrs = false ∧ checkDomain r l.attrs.domain = .client ∧
      checkPermission r l.attrs req.kind req.pl = .reserved ∧ checkLeaf r req secure l = .unpredictable .ap0b100) ∨
    (accessFlagClear r l.attrs = false ∧ checkDomain r l.attrs.domain = .client ∧
      checkPermission r l.attrs req.kind req.pl = .denied ∧
      checkLeaf r req secure l = .responds (.fault .permission l.attrs.level (some l.attrs.domain))) ∨
    (accessFlagClear r l.attrs = false ∧ checkDomain r l.attrs.domain = .client ∧
      checkPermission r l.attrs req.kind req.pl = .permitted ∧
      checkLeaf r req secure l = .responds (okResponse secure l)) := by
  unfold checkLeaf
  cases accessFlagClear r l.attrs with
  | true => simp
  | false =>
    cases checkDomain r l.attrs.domain with
    | noAccess => simp
    | reserved => simp
    | manager => simp
    | client => cases checkPermission r l.attrs req.kind req.pl <;> simp

theorem useLeaf_next {s t : State} {l : Leaf} (h : s.useLeaf l = .next t) :
    ∃ r, s.checked l = .responds r ∧ t = (s.keep l).answer r := conclude_next h

theorem useKept_next {s t : State} {e : TlbEntry} (h : s.useKept e = .next t) :
    ∃ r, s.checked (e.leafFor s.req.va) = .responds r ∧ t = s.answer r := conclude_next h

theorem reservedType_next {s t : State} (h : s.reservedType = .next t) :
    s.cfg.l1Type3NoPxn = .translationFault ∧ t = s.answer (.fault .translation .first none) := by
  unfold State.reservedType at h
  split at h
  · cases h
  · next hc => exact ⟨hc, by simpa using h.symm⟩

/-- A record that answers covers the address, is kept, and is picked only where translations are kept. -/
theorem tlbPick_some {s : State} {e : TlbEntry} (h : s.tlbPick = some e) :
    s.cfg.tlbModel = .nondeterministicCache ∧ e ∈ s.tlb ∧ e.covers s.req.va = true := by
  unfold State.tlbPick at h
  split at h
  · cases h
  · next hm =>
    have hmem := List.mem_of_getElem? h
    rw [List.mem_filter] at hmem
    exact ⟨hm, hmem.1, hmem.2⟩

theorem tlbPick_of_static {s : State} (h : s.cfg.tlbModel = .staticTables) : s.tlbPick = none := by
  unfold State.tlbPick; rw [h]

/-- All that a mapping descriptor's meaning can do when it answers a next state. -/
theorem exec_next {i : Instr} {s t : State} (h : exec i s = .next t) :
    (∃ ign, i = .l1Fault ign ∧ t = s.answer (.fault .translation .first none)) ∨
    (∃ d, i = .l1PageTable d ∧ t = { s with parent := d, walk := .second }) ∨
    (∃ ign, i = .l2Fault ign ∧ t = s.answer (.fault .translation .second (some s.parent.domain))) ∨
    (∃ l r, mappedLeaf s i = some l ∧ passesStep3 s i = true ∧ s.checked l = .responds r ∧ t = (s.keep l).answer r) := by
  cases i with
  | l1Fault ign => exact .inl ⟨ign, rfl, by simpa [exec, execL1Fault] using h.symm⟩
  | l1PageTable d => exact .inr (.inl ⟨d, rfl, by simpa [exec, execL1PageTable] using h.symm⟩)
  | l2Fault ign => exact .inr (.inr (.inl ⟨ign, rfl, by simpa [exec, execL2Fault] using h.symm⟩))
  | l1Section d =>
    obtain ⟨r, hr, ht⟩ := useLeaf_next (s := s) h
    exact .inr (.inr (.inr ⟨_, r, rfl, rfl, hr, ht⟩))
  | l1Supersection d =>
    simp only [exec, execL1Supersection] at h
    split at h
    · cases h
    · next hr =>
      obtain ⟨r, hc, ht⟩ := useLeaf_next h
      exact .inr (.inr (.inr ⟨_, r, rfl, by simpa [passesStep3] using hr, hc, ht⟩))
  | l2LargePage d =>
    simp only [exec, execL2LargePage] at h
    split at h
    · cases h
    · next hz =>
      split at h
      · cases h
      · next hr =>
        obtain ⟨r, hc, ht⟩ := useLeaf_next h
        refine .inr (.inr (.inr ⟨_, r, rfl, ?_, hc, ht⟩))
        simp only [Bool.not_eq_true, Bool.or_eq_false_iff] at hz hr
        simp [passesStep3, hz.1, hz.2, hr]
  | l2SmallPage d =>
    simp only [exec, execL2SmallPage] at h
    split at h
    · cases h
    · next hz =>
      obtain ⟨r, hc, ht⟩ := useLeaf_next h
      exact .inr (.inr (.inr ⟨_, r, rfl, by simpa [passesStep3] using hz, hc, ht⟩))

theorem runDescriptor_next {lvl : Level} {s t : State} (h : runDescriptor lvl s = .next t) :
    (s.fetchWord = none ∧ t = s.answer (.fault .externalAbortOnWalk lvl none)) ∨
    (∃ w e, s.fetchWord = some w ∧ decodeWord s.cfg lvl w = .error e ∧ s.reservedType = .next t) ∨
    (∃ w i, s.fetchWord = some w ∧ decodeWord s.cfg lvl w = .ok i ∧ exec i s = .next t) := by
  unfold runDescriptor at h
  cases hw : s.fetchWord with
  | none =>
    rw [hw] at h
    exact .inl ⟨rfl, by simpa using h.symm⟩
  | some w =>
    rw [hw] at h
    simp only at h
    cases hd : decodeWord s.cfg lvl w with
    | error e => rw [hd] at h; exact .inr (.inl ⟨w, e, rfl, hd, h⟩)
    | ok i => rw [hd] at h; exact .inr (.inr ⟨w, i, rfl, hd, h⟩)

/-- All that a step can do when it answers a next state. -/
theorem step_next {s t : State} (h : step s = .next t) :
    (s.walk = .idle ∧ t = s) ∨
    (s.walk = .second ∧ runDescriptor .second s = .next t) ∨
    (s.walk = .first ∧ ∃ e, s.tlbPick = some e ∧ s.countChoice.useKept e = .next t) ∨
    (s.walk = .first ∧ s.tlbPick = none ∧ runDescriptor .first s.countChoice = .next t) := by
  unfold step at h
  split at h
  · next hw => exact .inl ⟨hw, by simpa using h.symm⟩
  · next hw => exact .inr (.inl ⟨hw, h⟩)
  · next hw =>
    split at h
    · next e he => exact .inr (.inr (.inl ⟨hw, e, he, h⟩))
    · next hn => exact .inr (.inr (.inr ⟨hw, hn, h⟩))

end Sys2Proof.Machine
end

