-- ==== Sys2Proof/Laws/PerInstr.lean ====
section
/-! SUPPORT. A law of every descriptor type, one lemma a constructor: its word has the fixed bits of its row of the opcode table
(`match` under `mask`). -/

namespace Sys2Proof.Laws

/-- The `mask` of the descriptor type's row in the opcode table. -/
def opcodeMask : Instr → Word
  | .l1Fault _ => 0x00000003#32
  | .l1PageTable _ => 0x00000003#32
  | .l1Section _ => 0x00040002#32
  | .l1Supersection _ => 0x00040002#32
  | .l2Fault _ => 0x00000003#32
  | .l2LargePage _ => 0x00000003#32
  | .l2SmallPage _ => 0x00000002#32

/-- The `match` of the descriptor type's row in the opcode table. -/
def opcodeMatch : Instr → Word
  | .l1Fault _ => 0x00000000#32
  | .l1PageTable _ => 0x00000001#32
  | .l1Section _ => 0x00000002#32
  | .l1Supersection _ => 0x00040002#32
  | .l2Fault _ => 0x00000000#32
  | .l2LargePage _ => 0x00000001#32
  | .l2SmallPage _ => 0x00000002#32

/-- A word equals a pattern under a mask if it does so bit by bit. -/
theorem and_eq_of_bits (w mask pattern : Word)
    (h : ∀ k : Fin 32, (w.getLsbD k && mask.getLsbD k) = pattern.getLsbD k) : w &&& mask = pattern := by
  apply BitVec.eq_of_getLsbD_eq
  intro i hi
  simpa using h ⟨i, hi⟩

/-- The word of the descriptor has the fixed bits of its row. -/
def OpcodeRow.Statement (i : Instr) : Prop := encode i &&& opcodeMask i = opcodeMatch i

theorem OpcodeRow.l1Fault (ign : BitVec 30) : OpcodeRow.Statement (.l1Fault ign) :=
  and_eq_of_bits _ _ _ fun k => by fin_cases k <;> (simp only [encode, BitVec.getLsbD_append]; simp [opcodeMask, opcodeMatch])

theorem OpcodeRow.l1PageTable (d : PageTableDesc) : OpcodeRow.Statement (.l1PageTable d) :=
  and_eq_of_bits _ _ _ fun k => by fin_cases k <;> (simp only [encode, BitVec.getLsbD_append]; simp [opcodeMask, opcodeMatch])

theorem OpcodeRow.l1Section (d : SectionDesc) : OpcodeRow.Statement (.l1Section d) :=
  and_eq_of_bits _ _ _ fun k => by fin_cases k <;> (simp only [encode, BitVec.getLsbD_append]; simp [opcodeMask, opcodeMatch])

theorem OpcodeRow.l1Supersection (d : SupersectionDesc) : OpcodeRow.Statement (.l1Supersection d) :=
  and_eq_of_bits _ _ _ fun k => by fin_cases k <;> (simp only [encode, BitVec.getLsbD_append]; simp [opcodeMask, opcodeMatch])

theorem OpcodeRow.l2Fault (ign : BitVec 30) : OpcodeRow.Statement (.l2Fault ign) :=
  and_eq_of_bits _ _ _ fun k => by fin_cases k <;> (simp only [encode, BitVec.getLsbD_append]; simp [opcodeMask, opcodeMatch])

theorem OpcodeRow.l2LargePage (d : LargePageDesc) : OpcodeRow.Statement (.l2LargePage d) :=
  and_eq_of_bits _ _ _ fun k => by fin_cases k <;> (simp only [encode, BitVec.getLsbD_append]; simp [opcodeMask, opcodeMatch])

theorem OpcodeRow.l2SmallPage (d : SmallPageDesc) : OpcodeRow.Statement (.l2SmallPage d) :=
  and_eq_of_bits _ _ _ fun k => by fin_cases k <;> (simp only [encode, BitVec.getLsbD_append]; simp [opcodeMask, opcodeMatch])

end Sys2Proof.Laws
end

