-- ==== Sys2Proof/Tests/Slice0.lean ====
section
/-! SUPPORT. Tests: the words and outcomes of 95_test_vectors.md (derived there from the spec's rules), the well-formedness smoke
test, and for each statement with hypotheses a state that meets them. -/

open Sys2Proof Sys2Proof.Machine

namespace Sys2Proof.Tests

/-! ## Well-formedness: an ill-formed term for each check -/

/-- An implementation without PXN. -/
def noPxn : Config := { Config.default with pxnOption := false }

def someSection : SectionDesc :=
  { base := 1, ns := false, nG := false, S := false, ap := 0b011, tex := 0, impdef := false, domain := 0, xn := false,
    c := false, b := false, pxn := true }

def someSupersection : SupersectionDesc :=
  { base := 0x0F12, ns := false, nG := false, S := false, ap := 0b011, tex := 0, impdef := false, xn := false, c := false,
    b := false, pxn := true }

theorem test_wellFormed_refuses_section_with_pxn_unsupported :
    (Instr.l1Section someSection).wellFormed noPxn = false ∧ (Instr.l1Section someSection).wellFormed .default = true := by
  decide

theorem test_wellFormed_refuses_supersection_with_pxn_unsupported :
    (Instr.l1Supersection someSupersection).wellFormed noPxn = false ∧
      (Instr.l1Supersection someSupersection).wellFormed .default = true := by
  decide

/-! ## Decoding: the words of 95_test_vectors.md 2.1 and 2.2 -/

theorem test_decode_l1Fault_all_ignored_bits_set :
    decodeWord .default .first 0xFFFFFFFC = .ok (.l1Fault 0x3FFFFFFF) := by decide

theorem test_decode_l1PageTable_bit18_is_an_address_bit :
    decodeWord .default .first 0x7FFFFEAD = .ok (.l1PageTable
      { base := 0x1FFFFF, impdef := true, domain := 5, sbz := false, ns := true, pxn := true }) := by decide

theorem test_decode_l1Section :
    decodeWord .default .first 0xABCBA6F7 = .ok (.l1Section
      { base := 0xABC, ns := true, nG := true, S := true, ap := 0b101, tex := 0b010, impdef := true, domain := 7,
        xn := true, c := false, b := true, pxn := true }) := by decide

theorem test_decode_l1Supersection_extended_base_out_of_order :
    decodeWord .default .first 0xC4551D4E = .ok (.l1Supersection
      { base := 0xA5C4, ns := false, nG := false, S := true, ap := 0b011, tex := 0b001, impdef := false, xn := false,
        c := true, b := true, pxn := false }) := by decide

theorem test_decode_l2Fault_with_ignored_bits :
    decodeWord .default .second 0x12345678 = .ok (.l2Fault 0x48D159E) := by decide

theorem test_decode_l2LargePage :
    decodeWord .default .second 0x4321DA29 = .ok (.l2LargePage
      { base := 0x4321, xn := true, tex := 0b101, nG := true, S := false, ap := 0b110, sbz := 0, c := true, b := false }) := by
  decide

theorem test_decode_l2SmallPage :
    decodeWord .default .second 0x9ABCD47F = .ok (.l2SmallPage
      { base := 0x9ABCD, nG := false, S := true, ap := 0b011, tex := 0b001, c := true, b := true, xn := true }) := by decide

theorem test_decode_refuses_type3_without_pxn :
    decodeWord noPxn .first 0x00100C03 = .error .l1Reserved := by decide

theorem test_decode_bytes_little_endian :
    decode .default .first [0xE1, 0x8D, 0x00, 0x00] = .ok (.l1PageTable
      { base := 0x23, impdef := false, domain := 15, sbz := false, ns := false, pxn := false }) := by decide

/-- The round trips of 95_test_vectors.md 2.1. -/
theorem test_encode_of_the_constructor_calls :
    encode (.l1Section { base := 0xABC, ns := true, nG := true, S := true, ap := 0b101, tex := 0b010, impdef := true,
                         domain := 7, xn := true, c := false, b := true, pxn := true }) = 0xABCBA6F7 ∧
    encode (.l1PageTable { base := 0x23, impdef := false, domain := 15, sbz := false, ns := false, pxn := false })
      = 0x00008DE1 ∧
    encode (.l1Supersection { base := 0xA5C4, ns := false, nG := false, S := true, ap := 0b011, tex := 0b001, impdef := false,
                              xn := false, c := true, b := true, pxn := false }) = 0xC4551D4E ∧
    encode (.l2LargePage { base := 0x4321, xn := true, tex := 0b101, nG := true, S := false, ap := 0b110, sbz := 0,
                           c := true, b := false }) = 0x4321DA29 ∧
    encode (.l2SmallPage { base := 0x9ABCD, nG := false, S := true, ap := 0b011, tex := 0b001, c := true, b := true,
                           xn := true }) = 0x9ABCD47F := by decide

theorem test_decodeTableWord_reads_the_first_level :
    decodeTableWord 32 0x00000000 = some (.l1Fault 0) ∧
    (decodeTableWord 32 0x00000002).map Instr.level = some .first := by decide

/-! ## Descriptor addresses: rows of 95_test_vectors.md 2.4 -/

/-- Register values for the tests: TTBR0, TTBR1, N, DACR and SCTLR.AFE. -/
def testRegs (t0 t1 : Word) (n : Word) (dacr : Word) (afe : Bool) : ControlRegs :=
  { sctlr := if afe then 0x20000000 else 0, ttbr0 := t0, ttbr1 := t1, ttbcr := n, dacr := dacr }

theorem test_l1DescAddr_at_the_split_N2 :
    l1DescAddr (testRegs 0x80001000 0x80004000 2 0 false) 0x3FF12345 = 0x80001FFC ∧
    l1DescAddr (testRegs 0x80001000 0x80004000 2 0 false) 0x40000000 = 0x80005000 := by decide

theorem test_l1DescAddr_low_base_bits_not_used_N7 :
    l1DescAddr (testRegs 0x800010FF 0x80007FFF 7 0 false) 0x01F00000 = 0x800010FC ∧
    l1DescAddr (testRegs 0x80001000 0x80004000 7 0 false) 0xFFFFFFFF = 0x80007FFC := by decide

theorem test_l1DescAddr_N0_never_uses_TTBR1 :
    l1DescAddr (testRegs 0x80004000 0x12345678 0 0 false) 0xFFF00000 = 0x80007FFC := by decide

/-! ## One step on a small state -/

/-- A request for `va`. -/
def testReq (va : Word) (kind : AccessKind) (pl : PrivLevel) : Request := { va := va, kind := kind, pl := pl, secure := true }

/-- A request presented to a machine with the registers `r`, static tables, and `word` at address `a`. -/
def firstState (r : ControlRegs) (a : PhysAddr) (word : Word) (req : Request) : State :=
  (({ State.reset with regsS := r } : State).storeWord true a word).present req

/-- The same machine when the Page table descriptor `p` has been read. -/
def secondState (r : ControlRegs) (a : PhysAddr) (word : Word) (req : Request) (p : PageTableDesc) : State :=
  { firstState r a word req with walk := .second, parent := p }

/-- What the requester sees after one step. -/
def answerAfterStep (s : State) : Option Translation := answerOf (step s)

/-- The next state of a step, if there is one. -/
def afterStep (s : State) : Option State :=
  match step s with
  | .next t => some t
  | .fault _ => none
  | .refused _ => none

/-- Address, map and domain of an `Ok` answer after one step. -/
def okAfterStep (s : State) : Option (PhysAddr × Bool × BitVec 4) :=
  match answerAfterStep s with
  | some (.responds (.ok pa ns a)) => some (pa, ns, a.domain)
  | _ => none

/-- P1: TTBR0 0x4000, D0 Client. -/
def p1Regs : ControlRegs := testRegs 0x4000 0 0 1 false

theorem test_step_l1Fault_P1_7 :
    answerAfterStep (firstState p1Regs 0x4008 0 (testReq 0x00200000 .read .pl1)) =
      some (.responds (.fault .translation .first none)) := by decide

theorem test_step_l1PageTable_R81_example :
    (afterStep (firstState p1Regs 0x400C 0x00008DE1 (testReq 0x00345678 .read .pl1))).map
      (fun t => (t.walk, t.fetchAddr, t.result)) = some (.second, 0x00008D14, none) := by decide

theorem test_step_l1Section_P1_1 :
    okAfterStep (firstState p1Regs 0x4000 0x00000C0E (testReq 0x00001234 .read .pl0)) =
      some (0x0000001234, false, 0) := by decide

theorem test_step_l1Section_execute_never_P1_6 :
    answerAfterStep (firstState p1Regs 0x4004 0x00100412 (testReq 0x00100010 .execute .pl1)) =
      some (.responds (.fault .permission .first (some 0))) := by decide

/-- P3 request 9 (WF1 taken as a premise): the upper half of a 16 MByte block, 40-bit PA. -/
theorem test_step_l1Supersection_P3_9 :
    okAfterStep (firstState (testRegs 0x30000 0x34000 2 0x101 false) 0x3603C 0x231C0802 (testReq 0x80FFFFFF .read .pl0)) =
      some (0x0123FFFFFF, true, 0) := by decide

/-- The same with the repetition checked and fifteen slots missing (R57). -/
theorem test_step_l1Supersection_unrepeated :
    answerAfterStep
      { firstState (testRegs 0x30000 0x34000 2 0x101 false) 0x3603C 0x231C0802 (testReq 0x80FFFFFF .read .pl0) with
        cfg := { Config.default with wf1Checked := true } } = some (.unpredictable .repetition) := by decide

/-- R90's example. -/
theorem test_step_l2Fault_R90_example :
    answerAfterStep (secondState p1Regs 0x8D14 0x12345678 (testReq 0x00345678 .read .pl1) (pageTableOfWord 0x00008DE1)) =
      some (.responds (.fault .translation .second (some 15))) := by decide

/-- P2 requests 9 and 8: Large page 0x00090011 through table A, AP[2:1] = 0b00. -/
theorem test_step_l2LargePage_P2_9 :
    answerAfterStep (secondState (testRegs 0x10000 0 0 0x4D true) 0x20054 0x00090011 (testReq 0x00015678 .read .pl0)
      (pageTableOfWord 0x00020001)) = some (.responds (.fault .permission .second (some 0))) := by decide

theorem test_step_l2LargePage_P2_8 :
    okAfterStep (secondState (testRegs 0x10000 0 0 0x4D true) 0x2007C 0x00090011 (testReq 0x0001F123 .read .pl1)
      (pageTableOfWord 0x00020001)) = some (0x000009F123, false, 0) := by decide

/-- P2 requests 11 and 14: a Manager domain is not checked; another parent puts the same entry in another domain. -/
theorem test_step_l2SmallPage_P2_11 :
    okAfterStep (secondState (testRegs 0x10000 0 0 0x4D true) 0x20400 0x000A0213 (testReq 0x00100000 .write .pl0)
      (pageTableOfWord 0x00020421)) = some (0x00000A0000, false, 1) := by decide

theorem test_step_l2SmallPage_P2_14 :
    answerAfterStep (secondState (testRegs 0x10000 0 0 0x4D true) 0x20000 0x00080032 (testReq 0x00200ABC .read .pl1)
      (pageTableOfWord 0x00020041)) = some (.responds (.fault .domain .second (some 2))) := by decide

/-- P4 requests 5 and 6. -/
theorem test_step_reserved_type_P4 :
    answerAfterStep { firstState (testRegs 0x4000 0 0 0x55555555 false) 0x4004 0x00100C03 (testReq 0x00100000 .read .pl1) with
        cfg := noPxn } = some (.unpredictable .l1Type0b11WithoutPxn) ∧
    answerAfterStep { firstState (testRegs 0x4000 0 0 0x55555555 false) 0x4004 0x00100C03 (testReq 0x00100000 .read .pl1) with
        cfg := { noPxn with l1Type3NoPxn := .translationFault } } = some (.responds (.fault .translation .first none)) := by
  decide

/-! ## Witnesses: for each statement with hypotheses, values that meet them, at the ends of each range -/

/-! ### Encoding -/

theorem test_witness_DecodeOfEncodedDescriptor :
    (Instr.l1Section someSection).wellFormed .default = true ∧
    (Instr.l1Supersection { someSupersection with pxn := false }).wellFormed noPxn = true := by decide

theorem test_witness_EncodeOfDecodedWord :
    decodeWord noPxn .first 0x00000001 = .ok (.l1PageTable (pageTableOfWord 1)) ∧
    decodeWord noPxn .second 0xFFFFFFFF = .ok (.l2SmallPage (smallPageOfWord 0xFFFFFFFF)) := by decide

theorem test_witness_DecodeOfBytesInMemory :
    ([] : List Byte).length ≠ 4 ∧ ([1, 0, 0] : List Byte).length ≠ 4 ∧ ([1, 0, 0, 0, 0] : List Byte).length ≠ 4 := by
  decide

theorem test_witness_FirstLevelTypeDecode :
    (0xFFFFFFFC#32).extractLsb 1 0 = 0b00#2 ∧ (0xFFFFFFFD#32).extractLsb 1 0 = 0b01#2 ∧
    ((0xFFFBFFFE#32).extractLsb 1 0 = 0b10#2 ∧ (0xFFFBFFFE#32).getLsbD 18 = false) ∧
    ((0x00040002#32).extractLsb 1 0 = 0b10#2 ∧ (0x00040002#32).getLsbD 18 = true) ∧
    ((0xFFFBFFFF#32).extractLsb 1 0 = 0b11#2 ∧ Config.default.pxnSupported = true ∧ (0xFFFBFFFF#32).getLsbD 18 = false) ∧
    ((0x00040003#32).extractLsb 1 0 = 0b11#2 ∧ Config.default.pxnSupported = true ∧ (0x00040003#32).getLsbD 18 = true) ∧
    noPxn.pxnSupported = false := by decide

theorem test_witness_SecondLevelTypeDecode :
    (0xFFFFFFFC#32).extractLsb 1 0 = 0b00#2 ∧ (0xFFFFFFFD#32).extractLsb 1 0 = 0b01#2 ∧
    (0xFFFFFFFE#32).extractLsb 1 0 = 0b10#2 ∧ (0xFFFFFFFF#32).extractLsb 1 0 = 0b11#2 := by decide

theorem test_witness_PageTableAndSectionFieldPositions :
    decodeWord .default .first 0x7FFFFEAD = .ok (.l1PageTable (pageTableOfWord 0x7FFFFEAD)) ∧
    decodeWord .default .first 0xABCBA6F7 = .ok (.l1Section (sectionOfWord 0xABCBA6F7)) := by decide

theorem test_witness_SupersectionFieldPositions :
    decodeWord .default .first 0xC4551D4E = .ok (.l1Supersection (supersectionOfWord 0xC4551D4E)) := by decide

theorem test_witness_SecondLevelFieldPositions :
    decodeWord .default .second 0x4321DA29 = .ok (.l2LargePage (largePageOfWord 0x4321DA29)) ∧
    decodeWord .default .second 0x9ABCD47F = .ok (.l2SmallPage (smallPageOfWord 0x9ABCD47F)) := by decide

theorem test_witness_FaultDescriptorsBehaveAlike :
    (0x00000000#32).extractLsb 1 0 = 0b00#2 ∧ (0xFFFFFFFC#32).extractLsb 1 0 = 0b00#2 ∧
    decodeWord .default .second 0x00000000 = .ok (.l2Fault 0) ∧
    decodeWord .default .second 0xFFFFFFFC = .ok (.l2Fault 0x3FFFFFFF) := by decide

theorem test_witness_LpaeForcesPxn :
    ({ noPxn with lpae := true } : Config).lpae = true ∧ noPxn.lpae = false := by decide

/-! ### Addresses: both sides of the split, at its ends -/

theorem test_witness_FirstLevelDescriptorAddress :
    (0x3FFFFFFF#32).toNat < 2 ^ (32 - ttbcrN (testRegs 0x80001000 0x80004000 2 0 false)) ∧
    2 ^ (32 - ttbcrN (testRegs 0x80001000 0x80004000 2 0 false)) ≤ (0x40000000#32).toNat ∧
    (0x01FFFFFF#32).toNat < 2 ^ (32 - ttbcrN (testRegs 0 0 7 0 false)) ∧
    2 ^ (32 - ttbcrN (testRegs 0 0 7 0 false)) ≤ (0x02000000#32).toNat ∧
    (0xFFFFFFFF#32).toNat < 2 ^ (32 - ttbcrN (testRegs 0 0 0 0 false)) := by decide

/-! ### The checks -/

theorem test_witness_DomainSettingFromDacrBits :
    let r := testRegs 0 0 0 0xE4000000 false
    (r.dacr.getLsbD (2 * (12#4).toNat + 1) = false ∧ r.dacr.getLsbD (2 * (12#4).toNat) = false) ∧
    (r.dacr.getLsbD (2 * (13#4).toNat + 1) = false ∧ r.dacr.getLsbD (2 * (13#4).toNat) = true) ∧
    (r.dacr.getLsbD (2 * (14#4).toNat + 1) = true ∧ r.dacr.getLsbD (2 * (14#4).toNat) = false) ∧
    (r.dacr.getLsbD (2 * (15#4).toNat + 1) = true ∧ r.dacr.getLsbD (2 * (15#4).toNat) = true) := by decide

theorem test_witness_SimplifiedPermissionTable :
    (0b001#3).extractLsb 2 1 = 0b00#2 ∧ (0b010#3).extractLsb 2 1 = 0b01#2 ∧ (0b100#3).extractLsb 2 1 = 0b10#2 ∧
    (0b111#3).extractLsb 2 1 = 0b11#2 := by decide

/-- The attributes of a Client-domain Section for the statements about checks. -/
def testAttrs (ap : BitVec 3) : Attrs :=
  { size := .sectionBlock, level := .first, domain := 0, ap := ap, xn := false, pxn := false, nG := false, S := false,
    tex := 0, c := false, b := false, impdef := false }

theorem test_witness_PermissionOutcomesFullModel :
    sctlrAfe (testRegs 0 0 0 1 false) = false ∧ (testAttrs 0b100).ap = 0b100#3 ∧ (testAttrs 0b000).ap ≠ 0b100#3 := by decide

theorem test_witness_PermissionOutcomesSimplifiedModel : sctlrAfe (testRegs 0 0 0 1 true) = true := by decide

/-! ### Meanings and where they trap -/

/-- A machine with AFE and DACR as given, reading from `va`; its parent Page table descriptor is in domain 5. -/
def bareState (afe : Bool) (dacr : Word) (kind : AccessKind) (pl : PrivLevel) : State :=
  { firstState (testRegs 0x4000 0 0 dacr afe) 0x4000 0 (testReq 0x00012345 kind pl) with
    parent := { base := 0x23, impdef := false, domain := 5, sbz := false, ns := true, pxn := false } }

def fullSection (ap : BitVec 3) (domain : BitVec 4) : SectionDesc := { someSection with ap := ap, domain := domain, pxn := false }

def fullLargePage (ap : BitVec 3) : LargePageDesc :=
  { base := 9, xn := false, tex := 0, nG := false, S := false, ap := ap, sbz := 0, c := false, b := false }

def fullSmallPage (ap : BitVec 3) : SmallPageDesc :=
  { base := 9, nG := false, S := false, ap := ap, tex := 0, c := false, b := false, xn := false }

theorem test_witness_DomainOfTheLeaf :
    (mappedLeaf (bareState false 1 .read .pl0) (.l1Section (sectionOfWord 0x00100CEE))).isSome = true ∧
    decodeWord .default .first 0x00100CEE = .ok (.l1Section (sectionOfWord 0x00100CEE)) ∧
    (mappedLeaf (bareState false 1 .read .pl0) (.l1Supersection someSupersection)).isSome = true ∧
    (mappedLeaf (bareState false 1 .read .pl0) (.l2LargePage (fullLargePage 3))).isSome = true ∧
    (mappedLeaf (bareState false 1 .read .pl0) (.l2SmallPage (fullSmallPage 3))).isSome = true ∧
    decodeWord .default .first 0x00008CA9 = .ok (.l1PageTable (bareState false 1 .read .pl0).parent) := by decide

theorem test_witness_NoPxnInAnyLeafWithoutSupport :
    noPxn.pxnSupported = false ∧
    mappedLeaf { bareState false 1 .read .pl0 with cfg := noPxn } (.l1Section someSection) =
      some (leafOfSection noPxn someSection 0x00012345) := by decide

/-- Client: DACR 0x401 makes domains 0 and 5 Client; Manager: 0xC03. -/
theorem test_witness_SectionAnswersOk :
    accessPermitted (bareState true 0x401 .write .pl0) (testAttrs 0b011) ∧
    accessPermitted (bareState false 0xC03 .execute .pl2) (testAttrs 0b000) :=
  ⟨⟨by decide, .inr (by decide)⟩, ⟨by decide, .inl (by decide)⟩⟩

/-- With the repetition checked, over sixteen equal slots. -/
def repeatedState : State :=
  let w := encode (.l1Supersection { someSupersection with pxn := false })
  { bareState false 0x401 .read .pl0 with
    cfg := { Config.default with wf1Checked := true }
    memS := (List.range 16).flatMap fun k =>
      [(0x4000 + 4 * k, w.extractLsb' 0 8), (0x4000 + 4 * k + 1, w.extractLsb' 8 8), (0x4000 + 4 * k + 2, w.extractLsb' 16 8),
       (0x4000 + 4 * k + 3, w.extractLsb' 24 8)] }

theorem test_witness_SupersectionAnswersOk :
    accessPermitted (bareState false 0x401 .read .pl0)
      { size := .supersection, level := .first, domain := 0, ap := 0b010, xn := false, pxn := true, nG := false, S := false,
        tex := 0, c := false, b := false, impdef := false } ∧
    passesStep3 (bareState false 0x401 .read .pl0) (.l1Supersection { someSupersection with ap := 0b010 }) = true :=
  ⟨⟨by decide, .inr (by decide)⟩, by decide⟩

theorem test_witness_SupersectionAnswersOk_repetition_checked :
    passesStep3 repeatedState (.l1Supersection { someSupersection with pxn := false }) = true := by decide

theorem test_witness_LargePageAnswersOk :
    accessPermitted (bareState false 0x401 .read .pl0)
      { size := .largePage, level := .second, domain := 5, ap := 0b010, xn := false, pxn := false, nG := false, S := false,
        tex := 0, c := false, b := false, impdef := false } ∧
    passesStep3 (bareState false 0x401 .read .pl0) (.l2LargePage (fullLargePage 0b010)) = true :=
  ⟨⟨by decide, .inr (by decide)⟩, by decide⟩

theorem test_witness_SmallPageAnswersOk :
    accessPermitted (bareState false 0x401 .write .pl1)
      { size := .smallPage, level := .second, domain := 5, ap := 0b001, xn := false, pxn := false, nG := false, S := false,
        tex := 0, c := false, b := false, impdef := false } ∧
    passesStep3 (bareState false 0x401 .write .pl1) (.l2SmallPage (fullSmallPage 0b001)) = true :=
  ⟨⟨by decide, .inr (by decide)⟩, by decide⟩

theorem test_witness_ClearAccessFlagFaultsFirst :
    let s := bareState true 0 .execute .pl0
    mappedLeaf s (.l1Section (fullSection 0b110 0)) = some (leafOfSection s.cfg (fullSection 0b110 0) s.req.va) ∧
    passesStep3 s (.l1Section (fullSection 0b110 0)) = true ∧ sctlrAfe s.regs = true ∧
    (leafOfSection s.cfg (fullSection 0b110 0) s.req.va).attrs.ap.getLsbD 0 = false := by decide

theorem test_witness_NoAccessDomainFaults :
    let s := bareState true 0x400 .read .pl1
    mappedLeaf s (.l1Section (fullSection 0b011 15)) = some (leafOfSection s.cfg (fullSection 0b011 15) s.req.va) ∧
    passesStep3 s (.l1Section (fullSection 0b011 15)) = true ∧
    (sctlrAfe s.regs = true → (leafOfSection s.cfg (fullSection 0b011 15) s.req.va).attrs.ap.getLsbD 0 = true) ∧
    checkDomain s.regs 15 = .noAccess := by decide

theorem test_witness_DeniedAccessInClientDomainFaults :
    let s := bareState false 0x401 .write .pl0
    let l := leafOfSmallPage s.cfg s.parent (fullSmallPage 0b010) s.req.va
    mappedLeaf s (.l2SmallPage (fullSmallPage 0b010)) = some l ∧ passesStep3 s (.l2SmallPage (fullSmallPage 0b010)) = true ∧
    (sctlrAfe s.regs = true → l.attrs.ap.getLsbD 0 = true) ∧ checkDomain s.regs l.attrs.domain = .client ∧
    checkPermission s.regs l.attrs s.req.kind s.req.pl = .denied := by decide

theorem test_witness_ManagerDomainIsNotChecked :
    let s := bareState false 0xC00 .write .pl0
    let l := leafOfLargePage s.cfg s.parent (fullLargePage 0b100) s.req.va
    mappedLeaf s (.l2LargePage (fullLargePage 0b100)) = some l ∧ passesStep3 s (.l2LargePage (fullLargePage 0b100)) = true ∧
    (sctlrAfe s.regs = true → l.attrs.ap.getLsbD 0 = true) ∧ checkDomain s.regs l.attrs.domain = .manager := by decide

theorem test_witness_ReservedValuesAreRefused_dacr :
    let s := bareState true 0x2 .read .pl1
    let l := leafOfSection s.cfg (fullSection 0b011 0) s.req.va
    mappedLeaf s (.l1Section (fullSection 0b011 0)) = some l ∧ passesStep3 s (.l1Section (fullSection 0b011 0)) = true ∧
    (sctlrAfe s.regs = true → l.attrs.ap.getLsbD 0 = true) ∧ checkDomain s.regs l.attrs.domain = .reserved := by decide

theorem test_witness_ReservedValuesAreRefused_ap :
    let s := bareState false 0x1 .read .pl1
    let l := leafOfSection s.cfg (fullSection 0b100 0) s.req.va
    mappedLeaf s (.l1Section (fullSection 0b100 0)) = some l ∧ passesStep3 s (.l1Section (fullSection 0b100 0)) = true ∧
    sctlrAfe s.regs = false ∧ checkDomain s.regs l.attrs.domain = .client ∧ l.attrs.ap = 0b100#3 := by decide

theorem test_witness_ShouldBeZeroBitsAreRefused :
    let s := bareState false 1 .read .pl0
    s.cfg.sbzIgnored = false ∧ { s with parent := pageTableOfWord 0x11 }.parent.sbz = true ∧
    ({ s with parent := pageTableOfWord 0x05, cfg := noPxn }.cfg.pxnSupported = false ∧
      { s with parent := pageTableOfWord 0x05, cfg := noPxn }.parent.pxn = true) ∧
    { fullLargePage 3 with sbz := 0b001 }.sbz ≠ 0 ∧ { fullLargePage 3 with sbz := 0b100 }.sbz ≠ 0 ∧
    ({ noPxn with sbzIgnored := true } : Config).sbzIgnored = true := by decide

/-- The last slot of the group differs, and the first one. -/
theorem test_witness_UnrepeatedDescriptorIsRefused :
    let s : State := { bareState false 0x401 .read .pl0 with cfg := { Config.default with wf1Checked := true } }
    s.cfg.wf1Checked = true ∧
    s.walkRead (clearBelow (l1DescAddr s.regs s.req.va) 6 + BitVec.ofNat 32 (4 * 15)) ≠
      some (encode (.l1Supersection someSupersection)) ∧
    s.walkRead (clearBelow (l1DescAddr s.regs s.req.va) 6 + BitVec.ofNat 32 (4 * 0)) ≠
      some (encode (.l1Supersection someSupersection)) ∧
    pageTableSbzBad s.cfg s.parent = false ∧ largePageSbzBad s.cfg (fullLargePage 3) = false ∧
    s.walkRead (clearBelow (l2DescAddr s.parent s.req.va) 6 + BitVec.ofNat 32 (4 * 15)) ≠
      some (encode (.l2LargePage (fullLargePage 3))) := by decide

/-! ### The step -/

/-- P1 with the Section of request 1. -/
def p1State : State := firstState p1Regs 0x4000 0x00000C0E (testReq 0x00001234 .read .pl0)

/-- A walk at the second level with the Small page of P2 request 11. -/
def p2State : State :=
  secondState (testRegs 0x10000 0 0 0x4D true) 0x20400 0x000A0213 (testReq 0x00100000 .write .pl0) (pageTableOfWord 0x00020421)

theorem test_witness_StepRunsTheDecodedDescriptor :
    (p1State.walkRead p1State.fetchAddr = some 0x00000C0E ∧ p1State.walk = .first ∧ p1State.tlbPick = none ∧
      decodeWord p1State.cfg .first 0x00000C0E = .ok (.l1Section (sectionOfWord 0x00000C0E)) ∧
      p1State.cfg.tlbModel = .staticTables) ∧
    (p2State.walkRead p2State.fetchAddr = some 0x000A0213 ∧ p2State.walk = .second ∧
      decodeWord p2State.cfg .second 0x000A0213 = .ok (.l2SmallPage (smallPageOfWord 0x000A0213))) := by decide

theorem test_witness_FailedWalkReadIsAnExternalAbort :
    ({ p1State with memS := [] }.walkRead { p1State with memS := [] }.fetchAddr = none ∧
      { p1State with memS := [] }.walk = .first ∧ { p1State with memS := [] }.tlbPick = none) ∧
    ({ p2State with memS := [] }.walkRead { p2State with memS := [] }.fetchAddr = none ∧
      { p2State with memS := [] }.walk = .second) := by decide

theorem test_witness_ReservedFirstLevelType :
    let s : State := { firstState p1Regs 0x4000 0x00100C03 (testReq 0 .read .pl1) with cfg := noPxn }
    let s' : State := { s with cfg := { noPxn with l1Type3NoPxn := .translationFault } }
    (s.walk = .first ∧ s.tlbPick = none ∧ s.walkRead s.fetchAddr = some 0x00100C03 ∧ s.cfg.pxnSupported = false ∧
      (0x00100C03#32).extractLsb 1 0 = 0b11#2 ∧ s.cfg.l1Type3NoPxn = .refuse) ∧
    (s'.walk = .first ∧ s'.tlbPick = none ∧ s'.walkRead s'.fetchAddr = some 0x00100C03 ∧ s'.cfg.pxnSupported = false ∧
      s'.cfg.l1Type3NoPxn = .translationFault) := by decide

/-- An implementation that keeps translations and checks the repetition. -/
def keeping : Config := { Config.default with tlbModel := .nondeterministicCache, wf1Checked := true }

/-- The record of the Section 0x00000C0E at address 0. -/
def keptSection : TlbEntry := tlbEntryOf 0 (leafOfSection keeping (sectionOfWord 0x00000C0E) 0)

/-- The record of the Section at address 0 with the AP bits given. -/
def keptWith (ap : BitVec 3) : TlbEntry :=
  tlbEntryOf 0 (leafOfSection keeping { sectionOfWord 0x00000C0E with ap := ap } 0)

theorem keptWith_covers (ap : BitVec 3) : (keptWith ap).covers 0x00001234 = true := by revert ap; decide

/-- Whatever the free choice, the record answers: more copies than it can pass. -/
def pickingState (dacr : Word) (afe : Bool) (ap : BitVec 3) : State :=
  { firstState (testRegs 0 0 0 dacr afe) 0 0x00000C0E (testReq 0x00001234 .read .pl0) with
    cfg := keeping, tlb := List.replicate (Config.tlbChoice 0 + 1) (keptWith ap) }

theorem pickingState_picks (dacr : Word) (afe : Bool) (ap : BitVec 3) :
    (pickingState dacr afe ap).walk = .first ∧ (pickingState dacr afe ap).tlbPick = some (keptWith ap) := by
  have h : (pickingState dacr afe ap).tlb.filter (fun e => e.covers (pickingState dacr afe ap).req.va) =
      List.replicate (Config.tlbChoice 0 + 1) (keptWith ap) := by
    refine List.filter_eq_self.mpr fun e he => ?_
    rw [List.eq_of_mem_replicate he]
    exact keptWith_covers ap
  refine ⟨rfl, ?_⟩
  show ((pickingState dacr afe ap).tlb.filter _)[Config.tlbChoice 0]? = _
  rw [h]
  exact List.getElem?_eq_some_iff.mpr ⟨by simp, by simp⟩

/-- What a clause asks of the registers and the attributes, besides a record that is picked. -/
theorem test_witness_KeptTranslationIsCheckedAfresh :
    accessPermitted (pickingState 1 false 0b011) (keptWith 0b011).leaf.attrs ∧
    (accessFlagClear (pickingState 0 false 0b011).regs (keptWith 0b011).leaf.attrs = false ∧
      checkDomain (pickingState 0 false 0b011).regs (keptWith 0b011).leaf.attrs.domain = .noAccess) ∧
    (sctlrAfe (pickingState 0 true 0b110).regs = true ∧ (keptWith 0b110).leaf.attrs.ap.getLsbD 0 = false) ∧
    (accessFlagClear (pickingState 1 false 0b001).regs (keptWith 0b001).leaf.attrs = false ∧
      checkDomain (pickingState 1 false 0b001).regs (keptWith 0b001).leaf.attrs.domain = .client ∧
      checkPermission (pickingState 1 false 0b001).regs (keptWith 0b001).leaf.attrs .read .pl0 = .denied) ∧
    (accessFlagClear (pickingState 2 true 0b011).regs (keptWith 0b011).leaf.attrs = false ∧
      checkDomain (pickingState 2 true 0b011).regs (keptWith 0b011).leaf.attrs.domain = .reserved) ∧
    (accessFlagClear (pickingState 1 false 0b100).regs (keptWith 0b100).leaf.attrs = false ∧
      checkDomain (pickingState 1 false 0b100).regs (keptWith 0b100).leaf.attrs.domain = .client ∧
      checkPermission (pickingState 1 false 0b100).regs (keptWith 0b100).leaf.attrs .read .pl0 = .reserved) :=
  ⟨⟨by decide, .inr (by decide)⟩, by decide, by decide, by decide, by decide, by decide⟩

/-- One that is answered `Ok`, and one that is answered the Domain fault: a Supersection where the repetition is taken as a premise,
and a Small page. -/
theorem test_witness_MappingLeavesAKeptRecord :
    (let s : State := { bareState false 0x401 .read .pl0 with cfg := { keeping with wf1Checked := false } }
     s.cfg.tlbModel = .nondeterministicCache ∧ (mappedLeaf s (.l1Supersection someSupersection)).isSome = true ∧
       passesStep3 s (.l1Supersection someSupersection) = true ∧
       ∃ t, exec (.l1Supersection someSupersection) s = .next t ∧ t.tlb ≠ []) ∧
    (let s : State := { bareState false 0 .read .pl0 with cfg := keeping }
     s.cfg.tlbModel = .nondeterministicCache ∧ (mappedLeaf s (.l2SmallPage (fullSmallPage 3))).isSome = true ∧
       passesStep3 s (.l2SmallPage (fullSmallPage 3)) = true ∧
       ∃ t, exec (.l2SmallPage (fullSmallPage 3)) s = .next t ∧ t.tlb ≠ []) :=
  ⟨⟨by decide, by decide, by decide, _, rfl, by decide⟩, by decide, by decide, by decide, _, rfl, by decide⟩

theorem test_witness_PlacedWordIsRunFirst :
    decodeTableWord 32 0x00000C0E = some (.l1Section (sectionOfWord 0x00000C0E)) := by decide

/-- A step that reads a Page table descriptor, one that ends a translation, and one at the second level. -/
def tableState : State := firstState p1Regs 0x400C 0x00008DE1 (testReq 0x00345678 .read .pl1)

theorem test_witness_StepWritesNoArchitecturalState :
    (afterStep p1State).isSome = true ∧ p1State.cfg.tlbModel = .staticTables ∧ (afterStep p2State).isSome = true := by decide

theorem test_witness_OneOrTwoWalkReads :
    ((afterStep tableState).isSome = true ∧ tableState.walk = .first ∧ tableState.tlbPick = none) ∧
    ((afterStep p1State).isSome = true ∧ p1State.walk = .first ∧ p1State.tlbPick = none) ∧
    ((afterStep p2State).isSome = true ∧ p2State.walk = .second) := by decide

/-- Its clause of a kept record that answers. -/
theorem test_witness_OneOrTwoWalkReads_kept :
    (pickingState 1 false 0b011).walk = .first ∧ (pickingState 1 false 0b011).tlbPick = some (keptWith 0b011) ∧
    ∃ t, step (pickingState 1 false 0b011) = .next t := by
  obtain ⟨hw, hp⟩ := pickingState_picks 1 false 0b011
  have hstep : step (pickingState 1 false 0b011) = (pickingState 1 false 0b011).countChoice.useKept (keptWith 0b011) := by
    unfold step; rw [hw, hp]
  have hc : (pickingState 1 false 0b011).checked ((keptWith 0b011).leafFor 0x00001234) =
      .responds (okResponse true ((keptWith 0b011).leafFor 0x00001234)) := by
    show checkLeaf (testRegs 0 0 0 1 false) (testReq 0x00001234 .read .pl0) true _ = _
    decide
  refine ⟨hw, hp, (pickingState 1 false 0b011).countChoice.answer (okResponse true ((keptWith 0b011).leafFor 0x00001234)), ?_⟩
  rw [hstep, State.useKept, State.countChoice_checked, State.countChoice_req,
    show (pickingState 1 false 0b011).req.va = 0x00001234 from rfl, hc, conclude_responds]

/-! ### Invariants and whole translations -/

/-- A translation in progress with one record kept, whose block contains the address. -/
def keptState : State :=
  { firstState (testRegs 0 0 0 1 false) 0 0x00000C0E (testReq 0x00001234 .read .pl0) with cfg := keeping, tlb := [keptSection] }

theorem keptSection_wf : keptSection.Wf keeping :=
  ⟨⟨⟨by decide, by decide, by decide⟩, by decide⟩, by decide, by decide⟩

theorem keptState_inv : keptState.Inv where
  memS_wf := by decide
  memNS_wf := by decide
  tlb_wf := by
    intro e he
    rw [List.mem_singleton.mp he]
    exact keptSection_wf
  tlb_nodup := by decide
  tlb_static := by decide
  pending := by decide
  answer_wf := fun _ h => nomatch h
  nonsecure_map := fun _ _ _ h => nomatch h

/-- The only word the walk of a test state with one word at address 0 can read. -/
theorem walkRead_of_word_at_0 {s : State} {x w : Word} (hm : s.walkMem = [(0, 0x0E), (1, 0x0C), (2, 0), (3, 0)])
    (hb : s.cfg.walkBigEndian = false) (h : s.walkRead x = some w) : x = 0 ∧ w = 0x00000C0E := by
  have h0 : x.toNat = 0 := by
    by_contra hx
    have h3 : s.walkMem.read (x.toNat + 3) = none := by
      rw [hm]; simp only [Memory.read]
      rw [if_neg (by omega), if_neg (by omega), if_neg (by omega), if_neg (by omega)]
    unfold State.walkRead at h
    rw [h3] at h
    split at h <;> simp_all
  have hx : x = 0 := BitVec.eq_of_toNat_eq (by simpa using h0)
  refine ⟨hx, ?_⟩
  subst hx
  unfold State.walkRead at h
  rw [hm, hb] at h
  exact (Option.some.inj h).symm

/-- Every address of the block of the kept record reads the descriptor at 0. -/
theorem l1DescAddr_of_covered (va : Word) (h : keptSection.covers va = true) :
    l1DescAddr (testRegs 0 0 0 1 false) va = 0 := by
  have h1 : (0 : Word) = va >>> 20 <<< 20 := by
    simpa [TlbEntry.covers, keptSection, tlbEntryOf, clearBelow, leafOfSection, blockBits] using h
  have h2 : va >>> 20 = 0 := by
    have h3 := congrArg BitVec.toNat h1
    simp only [BitVec.toNat_shiftLeft, BitVec.toNat_ushiftRight, Nat.shiftRight_eq_div_pow, Nat.shiftLeft_eq] at h3
    refine BitVec.eq_of_toNat_eq ?_
    simp only [BitVec.toNat_ushiftRight, Nat.shiftRight_eq_div_pow]
    have := va.isLt
    simp at h3 ⊢
    omega
  simp [l1DescAddr, l1TableBase, l1Index, usesTTBR0, ttbcrN, testRegs, fieldAt, clearBelow, h2]

/-- Whatever the free choice, the step answers. -/
theorem keptState_steps : ∃ t, step keptState = .next t := by
  have hstep : step keptState =
      (match keptState.tlbPick with
       | some e => keptState.countChoice.useKept e
       | none => runDescriptor .first keptState.countChoice) := rfl
  rw [hstep]
  cases h : keptState.tlbPick with
  | some e => rw [List.mem_singleton.mp (tlbPick_some h).2.1]; exact ⟨_, rfl⟩
  | none => exact ⟨_, rfl⟩

theorem keptState_coherent : keptState.Coherent where
  kept := by
    intro e he va hc
    rw [List.mem_singleton.mp he] at hc ⊢
    have ha := l1DescAddr_of_covered va hc
    have hr : (keptState.atVa va).walkRead 0 = some 0x00000C0E := by
      rw [State.atVa_walkRead]; decide
    have hw : walkLeaf (keptState.atVa va) = walkFirstLevelMapping (keptState.atVa va) 0 0x00000C0E := by
      unfold walkLeaf
      rw [State.atVa_regs, show (keptState.atVa va).req.va = va from rfl,
        show keptState.regs = testRegs 0 0 0 1 false from rfl, ha]
      simp only [hr]
      rfl
    rw [hw]
    have hp : ((0x00000C0E#32).extractLsb 31 20 ++ va.extractLsb 19 0).setWidth 40 =
        ((keptSection.leaf.pa >>> 20) <<< 20) ||| (va.setWidth 20).setWidth 40 := by
      rw [show (0x00000C0E#32).extractLsb 31 20 = 0 by decide, show (keptSection.leaf.pa >>> 20) <<< 20 = 0 by decide]
      refine BitVec.eq_of_toNat_eq ?_
      simp only [BitVec.toNat_setWidth, BitVec.toNat_append, BitVec.toNat_or]
      simp
    show WalkResult.leaf _ = WalkResult.leaf _
    refine congrArg WalkResult.leaf ?_
    exact congrArg (fun pa => ({ keptSection.leaf with pa := pa } : Leaf)) hp
  parent := nofun

theorem test_witness_StepKeepsTheInvariant : keptState.Inv ∧ ∃ t, step keptState = .next t :=
  ⟨keptState_inv, keptState_steps⟩

theorem test_witness_StepsComputeTranslate : p1State.walk = .first ∧ p1State.cfg.tlbModel = .staticTables := by decide

theorem test_witness_KeptTranslationsAreUnobservable : keptState.walk = .first ∧ keptState.tlb ≠ [] ∧ keptState.Coherent :=
  ⟨rfl, by decide, keptState_coherent⟩

theorem test_witness_StepKeepsKeptTranslationsCoherent :
    keptState.cfg.wf1Checked = true ∧ keptState.Coherent ∧ ∃ t, step keptState = .next t :=
  ⟨rfl, keptState_coherent, keptState_steps⟩

theorem test_witness_NothingKeptIsCoherent : p1State.tlb = [] := rfl

/-- One Section, every domain Client: the rest of memory gives no data. -/
def obligedState : State :=
  firstState (testRegs 0 0 0 0x55555555 false) 0 0x00000C0E (testReq 0x00001234 .write .pl0)

theorem test_witness_ObligedSoftwareIsNeverRefused : obligedState.Setup where
  domains := by decide
  tables := by
    intro va d1 h
    obtain ⟨_, rfl⟩ := walkRead_of_word_at_0 (by decide) rfl h
    exact .inr (by decide)
  kept := nofun
  in_walk := nofun

theorem test_witness_ObligedSoftwareIsNeverRefused_request :
    (testReq 0x00100000 .execute .pl2).secure = obligedState.req.secure := rfl

theorem test_witness_OkOnlyWhenPermitted :
    ∃ t pa ns a, p1State.walk ≠ .idle ∧ step p1State = .next t ∧ t.walk = .idle ∧ t.result = some (.ok pa ns a) :=
  ⟨_, _, _, _, by decide, rfl, rfl, rfl⟩

/-- Other bits of SCTLR and TTBCR, the low bits of the bases, the other bank and map, and what is kept may all differ. -/
theorem test_witness_TranslateReadsOnlyWhatItLists :
    let s' : State :=
      { p1State with
        regsS := { sctlr := 0xDFFFFFFF, ttbr0 := 0x7FFF, ttbr1 := 0x3FFF, ttbcr := 0xFFFFFFF8, dacr := 1 }
        regsNS := testRegs 1 2 3 4 true, memNS := [(0, 1)], tlb := [keptSection] }
    s'.cfg = p1State.cfg ∧ s'.req = p1State.req ∧ s'.walkMem = p1State.walkMem ∧
    sctlrAfe s'.regs = sctlrAfe p1State.regs ∧ ttbcrN s'.regs = ttbcrN p1State.regs ∧ s'.regs.dacr = p1State.regs.dacr ∧
    s'.regs.ttbr0 >>> (14 - ttbcrN p1State.regs) = p1State.regs.ttbr0 >>> (14 - ttbcrN p1State.regs) ∧
    s'.regs.ttbr1 >>> 14 = p1State.regs.ttbr1 >>> 14 ∧ s' ≠ p1State := by decide

theorem test_witness_TranslationFromTablesReadsOneSecurityState :
    let cfg : Config := { Config.default with securityExt := true }
    let s : State :=
      { State.reset with
        cfg := cfg, regsNS := p1Regs, memNS := p1State.memS, req := { p1State.req with secure := false }, walk := .first }
    let s' : State := { s with regsS := testRegs 1 2 3 4 true, memS := [(0, 1)] }
    (s'.cfg = s.cfg ∧ s'.req = s.req ∧ s.cfg.tlbModel = .staticTables ∧ s.walk = .first ∧ s'.walk = .first ∧
      s.cfg.securityExt = true ∧ s.req.secure = false ∧ s'.regsNS = s.regsNS ∧
      s'.memNS = s.memNS ∧ s' ≠ s ∧
      translateReq s = .responds (.ok 0x1234 true { testAttrs 0b011 with c := true, b := true })) ∧
    (p1State.cfg.securityExt = false ∧ { p1State with regsNS := p1Regs, memNS := [(0, 1)] } ≠ p1State) := by decide

theorem test_witness_LowAddressBitsPassThrough :
    (0x00001FFF#32) >>> 12 = p1State.req.va >>> 12 ∧ (0x00001000#32) >>> 12 = p1State.req.va >>> 12 := by decide

/-! ### Memory -/

theorem test_witness_StoredWordIsRead : (0#32).toNat % 4 = 0 ∧ (0xFFFFFFFC#32).toNat % 4 = 0 := by decide

theorem test_witness_StoreLeavesOtherWords :
    (0x4000#32).toNat % 4 = 0 ∧ (0x4004#32).toNat % 4 = 0 ∧ (0xFFFFFFFC#32).toNat % 4 = 0 ∧ (0x4000#32) ≠ 0x4004#32 ∧
    (0#32) ≠ 0xFFFFFFFC#32 := by decide

end Sys2Proof.Tests
end

/-! PROOFS. The parameters of the implementation (00_scope.md, R4 and R5). -/

namespace Sys2Proof

theorem Config.pxnSupported_of_lpae {cfg : Config} (h : cfg.lpae = true) : cfg.pxnSupported = true := by
  simp [Config.pxnSupported, h]

/-- Without LPAE the parameter is the implementation's own choice. -/
theorem Config.pxnSupported_of_no_lpae {cfg : Config} (h : cfg.lpae = false) :
    cfg.pxnSupported = cfg.pxnOption := by
  simp [Config.pxnSupported, h]

/-- Settles O11, by the two values of the parameter `LPAE`. -/
theorem lpaeForcesPxn : Obligations.LpaeForcesPxn := by
  intro cfg
  constructor
  · exact Config.pxnSupported_of_lpae
  · intro hlpae b
    exact Config.pxnSupported_of_no_lpae (cfg := { cfg with pxnOption := b }) hlpae

end Sys2Proof

/-! PROOFS. The settings of the domains (10_state.md, R16 and R17). -/

namespace Sys2Proof.Machine

/-- A two-bit field of a word is its upper bit followed by its lower bit (R6). -/
theorem fieldAt_two (w : Word) (lo : Nat) :
    fieldAt w lo 2 = BitVec.ofBool (w.getLsbD (lo + 1)) ++ BitVec.ofBool (w.getLsbD lo) := by
  refine BitVec.eq_of_getLsbD_eq fun i hi => ?_
  rw [fieldAt, BitVec.getLsbD_extractLsb', BitVec.getLsbD_append]
  obtain rfl | rfl : i = 0 ∨ i = 1 := by omega
  · simp
  · simp

theorem dacrField_of_bits {r : ControlRegs} {n : BitVec 4} {hi lo : Bool}
    (hhi : r.dacr.getLsbD (2 * n.toNat + 1) = hi) (hlo : r.dacr.getLsbD (2 * n.toNat) = lo) :
    dacrField r n = BitVec.ofBool hi ++ BitVec.ofBool lo := by
  rw [dacrField, fieldAt_two, hhi, hlo]

/-- The table of R17 by the two bits of the domain's field. -/
theorem checkDomain_of_bits {r : ControlRegs} {n : BitVec 4} {hi lo : Bool}
    (hhi : r.dacr.getLsbD (2 * n.toNat + 1) = hi) (hlo : r.dacr.getLsbD (2 * n.toNat) = lo) :
    checkDomain r n =
      if hi then (if lo then .manager else .reserved) else (if lo then .client else .noAccess) := by
  rw [checkDomain, dacrField_of_bits hhi hlo]
  cases hi with
  | false => cases lo <;> rfl
  | true => cases lo <;> rfl

/-- Settles O16: each clause is one row of `checkDomain_of_bits`. -/
theorem domainSettingFromDacrBits : Obligations.DomainSettingFromDacrBits := by
  intro r n
  refine ⟨?_, ?_, ?_, ?_⟩ <;> exact fun hhi hlo => checkDomain_of_bits hhi hlo

end Sys2Proof.Machine

/-! PROOFS. Where the fields of a descriptor stand in its word, and what its ignored bits cannot change (30_encoding.md, R65, R69,
R70 and R74). -/

namespace Sys2Proof

open Machine

/-! ### Bits and fields of a word -/

theorem ofBool_append_ofBool_inj :
    ∀ {a b c d : Bool}, BitVec.ofBool a ++ BitVec.ofBool b = BitVec.ofBool c ++ BitVec.ofBool d ↔ a = c ∧ b = d := by
  decide

/-- The type bits `w[1:0]`, which R61 and R67 tabulate together, as the two bits that the decoder tests. -/
theorem typeBits_eq_iff {w : Word} {hi lo : Bool} :
    w.extractLsb 1 0 = BitVec.ofBool hi ++ BitVec.ofBool lo ↔ bitAt w 1 = hi ∧ bitAt w 0 = lo := by
  have hbits : w.extractLsb 1 0 = BitVec.ofBool (bitAt w 1) ++ BitVec.ofBool (bitAt w 0) := fieldAt_two w 0
  rw [hbits, ofBool_append_ofBool_inj]

/-- The middle one of three fields side by side. -/
theorem extractLsb'_append_append_middle {u v n : Nat} (high : BitVec u) (mid : BitVec v) (low : BitVec n) :
    (high ++ mid ++ low).extractLsb' n v = mid := by
  rw [BitVec.extractLsb'_append_eq_of_le (le_refl n), Nat.sub_self, BitVec.extractLsb'_append_eq_right]

/-- The highest one of three fields side by side. -/
theorem extractLsb'_append_append_high {u v n : Nat} (high : BitVec u) (mid : BitVec v) (low : BitVec n) :
    (high ++ mid ++ low).extractLsb' (v + n) u = high := by
  rw [BitVec.extractLsb'_append_eq_of_le (Nat.le_add_left n v), Nat.add_sub_cancel, BitVec.extractLsb'_append_eq_left]

/-! ### The words that decode to a type -/

theorem decodeWord_eq_supersection {cfg : Config} {w : Word} {d : SupersectionDesc}
    (h : decodeWord cfg .first w = .ok (.l1Supersection d)) :
    bitAt w 1 = true ∧ bitAt w 18 = true ∧ d = supersectionOfWord w := by
  rw [decodeWord] at h
  obtain ⟨-, -, e⟩ | ⟨-, -, e⟩ | ⟨-, -, -, e⟩ | ⟨h1, -, h18, e⟩ | ⟨-, -, -, e⟩ := decodeFirst_cases cfg w <;>
    cases e.symm.trans h
  exact ⟨h1, h18, rfl⟩

theorem decodeWord_eq_largePage {cfg : Config} {w : Word} {d : LargePageDesc}
    (h : decodeWord cfg .second w = .ok (.l2LargePage d)) :
    bitAt w 1 = false ∧ bitAt w 0 = true ∧ d = largePageOfWord w := by
  have h := Except.ok.inj h
  obtain ⟨-, -, e⟩ | ⟨h1, h0, e⟩ | ⟨-, e⟩ := decodeSecond_cases w <;> cases e.symm.trans h
  exact ⟨h1, h0, rfl⟩

theorem decodeWord_eq_smallPage {cfg : Config} {w : Word} {d : SmallPageDesc}
    (h : decodeWord cfg .second w = .ok (.l2SmallPage d)) :
    bitAt w 1 = true ∧ d = smallPageOfWord w := by
  have h := Except.ok.inj h
  obtain ⟨-, -, e⟩ | ⟨-, -, e⟩ | ⟨h1, e⟩ := decodeSecond_cases w <;> cases e.symm.trans h
  exact ⟨h1, rfl⟩

/-! ### The fields of a Supersection -/

/-- PA[39:36] of a Supersection (R65). -/
theorem supersectionOfWord_base_high (w : Word) :
    (supersectionOfWord w).base.extractLsb 15 12 = w.extractLsb 8 5 :=
  extractLsb'_append_append_high (fieldAt w 5 4) (fieldAt w 20 4) (fieldAt w 24 8)

/-- PA[35:32] of a Supersection (R65). -/
theorem supersectionOfWord_base_mid (w : Word) :
    (supersectionOfWord w).base.extractLsb 11 8 = w.extractLsb 23 20 :=
  extractLsb'_append_append_middle (fieldAt w 5 4) (fieldAt w 20 4) (fieldAt w 24 8)

/-- PA[31:24] of a Supersection (R65). -/
theorem supersectionOfWord_base_low (w : Word) :
    (supersectionOfWord w).base.extractLsb 7 0 = w.extractLsb 31 24 :=
  BitVec.extractLsb'_append_eq_right

/-- There is no domain field to read (R65, R109). -/
@[simp] theorem leafOfSupersection_domain (cfg : Config) (d : SupersectionDesc) (va : Word) :
    (leafOfSupersection cfg d va).attrs.domain = 0 := rfl

/-- Settles O7. Only the base, whose parts the word holds out of order, is more than the decoder's own equations. -/
theorem supersectionFieldPositions : Obligations.SupersectionFieldPositions := by
  intro cfg w d h
  obtain ⟨h1, h18, rfl⟩ := decodeWord_eq_supersection h
  exact ⟨h1, h18, supersectionOfWord_base_high w, supersectionOfWord_base_mid w, supersectionOfWord_base_low w,
    rfl, rfl, rfl, rfl, rfl, rfl, rfl, rfl, rfl, rfl, leafOfSupersection_domain cfg _⟩

/-! ### The fields of the second-level mappings -/

/-- Settles O8, by the one word each second-level mapping is decoded from; its fields are then the decoder's own equations. -/
theorem secondLevelFieldPositions : Obligations.SecondLevelFieldPositions := by
  intro cfg w
  constructor
  · intro d h
    obtain ⟨h1, h0, rfl⟩ := decodeWord_eq_largePage h
    exact ⟨typeBits_eq_iff.mpr ⟨h1, h0⟩, rfl, rfl, rfl, rfl, rfl, rfl, rfl, rfl, rfl⟩
  · intro d h
    obtain ⟨h1, rfl⟩ := decodeWord_eq_smallPage h
    exact ⟨h1, rfl, rfl, rfl, rfl, rfl, rfl, rfl, rfl⟩

/-! ### Fault descriptors -/

/-- The Fault descriptor of a level, with its ignored bits (R62, R68). -/
def Instr.faultAt : Level → BitVec 30 → Instr
  | .first => .l1Fault
  | .second => .l2Fault

/-- At either level the type bits 0b00 are a Fault descriptor on every implementation (R61, R67). -/
theorem decodeWord_of_typeBits_00 {w : Word} (h : w.extractLsb 1 0 = 0b00#2) (cfg : Config) (lvl : Level) :
    decodeWord cfg lvl w = .ok (.faultAt lvl (fieldAt w 2 30)) := by
  have hbits : w.extractLsb 1 0 = BitVec.ofBool false ++ BitVec.ofBool false := h
  obtain ⟨h1, h0⟩ := typeBits_eq_iff.mp hbits
  cases lvl with
  | first => simp [decodeWord, decodeFirst, h1, h0, Instr.faultAt]
  | second => simp [decodeWord, decodeSecond, h1, h0, Instr.faultAt]

/-- R80: the ignored bits do not occur in the outcome. -/
theorem exec_l1Fault (ign : BitVec 30) (s : State) :
    exec (.l1Fault ign) s = s.raise .translation .first none := rfl

/-- R90: the domain reported is the parent's, and the ignored bits do not occur in the outcome. -/
theorem exec_l2Fault (ign : BitVec 30) (s : State) :
    exec (.l2Fault ign) s = s.raise .translation .second (some s.parent.domain) := rfl

theorem exec_faultAt_eq (lvl : Level) (ign ign' : BitVec 30) (s : State) :
    exec (.faultAt lvl ign) s = exec (.faultAt lvl ign') s := by
  cases lvl with
  | first => exact (exec_l1Fault ign s).trans (exec_l1Fault ign' s).symm
  | second => exact (exec_l2Fault ign s).trans (exec_l2Fault ign' s).symm

/-- Settles O10: both words are Fault descriptors of the level, which differ at most in their ignored bits. -/
theorem faultDescriptorsBehaveAlike : Obligations.FaultDescriptorsBehaveAlike := by
  intro cfg lvl w w' i i' s hw hw' hi hi'
  obtain rfl := Except.ok.inj ((decodeWord_of_typeBits_00 hw cfg lvl).symm.trans hi)
  obtain rfl := Except.ok.inj ((decodeWord_of_typeBits_00 hw' cfg lvl).symm.trans hi')
  exact exec_faultAt_eq lvl _ _ s

end Sys2Proof

/-! PROOFS. The attributes of a leaf (42_memory_attributes.md, R109). -/

namespace Sys2Proof

open Machine

/-! ### The words that decode to a Page table or a Section -/

theorem decodeWord_eq_pageTable {cfg : Config} {w : Word} {d : PageTableDesc}
    (h : decodeWord cfg .first w = .ok (.l1PageTable d)) :
    bitAt w 1 = false ∧ bitAt w 0 = true ∧ d = pageTableOfWord w := by
  rw [decodeWord] at h
  obtain ⟨-, -, e⟩ | ⟨h1, h0, e⟩ | ⟨-, -, -, e⟩ | ⟨-, -, -, e⟩ | ⟨-, -, -, e⟩ := decodeFirst_cases cfg w <;>
    cases e.symm.trans h
  exact ⟨h1, h0, rfl⟩

theorem decodeWord_eq_section {cfg : Config} {w : Word} {d : SectionDesc}
    (h : decodeWord cfg .first w = .ok (.l1Section d)) :
    bitAt w 1 = true ∧ bitAt w 18 = false ∧ d = sectionOfWord w := by
  rw [decodeWord] at h
  obtain ⟨-, -, e⟩ | ⟨-, -, e⟩ | ⟨h1, -, h18, e⟩ | ⟨-, -, -, e⟩ | ⟨-, -, -, e⟩ := decodeFirst_cases cfg w <;>
    cases e.symm.trans h
  exact ⟨h1, h18, rfl⟩

/-! ### The domain of a descriptor and of a leaf -/

/-- The Domain field of a Page table descriptor (R63, R109). -/
theorem pageTable_domain_of_decodeWord {cfg : Config} {w : Word} {d : PageTableDesc}
    (h : decodeWord cfg .first w = .ok (.l1PageTable d)) : d.domain = w.extractLsb 8 5 := by
  obtain ⟨-, -, rfl⟩ := decodeWord_eq_pageTable h
  rfl

/-- The Domain field of a Section descriptor (R64, R109). -/
theorem section_domain_of_decodeWord {cfg : Config} {w : Word} {d : SectionDesc}
    (h : decodeWord cfg .first w = .ok (.l1Section d)) : d.domain = w.extractLsb 8 5 := by
  obtain ⟨-, -, rfl⟩ := decodeWord_eq_section h
  rfl

@[simp] theorem leafOfSection_domain (cfg : Config) (d : SectionDesc) (va : Word) :
    (leafOfSection cfg d va).attrs.domain = d.domain := rfl

/-- A second-level descriptor has no Domain field: its parent's applies (R93, R109). -/
@[simp] theorem leafOfLargePage_domain (cfg : Config) (p : PageTableDesc) (d : LargePageDesc) (va : Word) :
    (leafOfLargePage cfg p d va).attrs.domain = p.domain := rfl

@[simp] theorem leafOfSmallPage_domain (cfg : Config) (p : PageTableDesc) (d : SmallPageDesc) (va : Word) :
    (leafOfSmallPage cfg p d va).attrs.domain = p.domain := rfl

/-- Settles O21, by the mapping type: the leaf takes the domain of the Section or of the parent Page table descriptor, and
that is bits[8:5] of the word it was decoded from. -/
theorem domainOfTheLeaf : Obligations.DomainOfTheLeaf := by
  intro s w i l hleaf
  refine ⟨?ofSection, ?ofSupersection, ?ofLargePage, ?ofSmallPage⟩
  case ofSection =>
    rintro d rfl hdecode
    obtain rfl := Option.some.inj hleaf
    rw [leafOfSection_domain, section_domain_of_decodeWord hdecode]
  case ofSupersection =>
    rintro d rfl
    obtain rfl := Option.some.inj hleaf
    exact leafOfSupersection_domain s.cfg d s.req.va
  case ofLargePage =>
    rintro d rfl hparent
    obtain rfl := Option.some.inj hleaf
    rw [leafOfLargePage_domain, pageTable_domain_of_decodeWord hparent]
  case ofSmallPage =>
    rintro d rfl hparent
    obtain rfl := Option.some.inj hleaf
    rw [leafOfSmallPage_domain, pageTable_domain_of_decodeWord hparent]

end Sys2Proof

/-! PROOFS. What the AP bits permit (44_access_permissions.md, R141 and R143). -/

namespace Sys2Proof.Machine

/-- R143: with SCTLR.AFE = 1 the table is read with AP[2:1] : 0b1. -/
theorem effectiveAp_simplified (ap : BitVec 3) : effectiveAp true ap = ap.extractLsb 2 1 ++ 0b1#1 := by
  revert ap
  decide

/-- R143: the table of R141 is, row for row, the table of R142 read with AP[0] = 1. -/
theorem perms_simplified (ap : BitVec 3) (priv : Bool) :
    perms true ap priv = perms false (ap.extractLsb 2 1 ++ 0b1#1) priv :=
  congrArg (fun eff => perms false eff priv) (effectiveAp_simplified ap)

/-- Settles O17: AP[2:1] alone picks the row of the full table, by `perms_simplified`, and each row is then evaluated. -/
theorem simplifiedPermissionTable : Obligations.SimplifiedPermissionTable := by
  intro ap priv
  rw [perms_simplified]
  refine ⟨?_, ?_, ?_, ?_⟩ <;> (intro hrow; rw [hrow]; rfl)

end Sys2Proof.Machine

/-! PROOFS. Encoding and decoding are inverse to each other (30_encoding.md, R60 to R77). -/

namespace Sys2Proof

open Machine

/-! ### Fields of a word that is written field by field -/

/-- A field above the lowest part of a word: the library's law, indexed so that `simp` finds it in a word of 32 bits. -/
theorem extractLsb'_append_of_le {u v lo len : Nat} {high : BitVec u} {low : BitVec v} (h : v ≤ lo) :
    (no_index (high ++ low)).extractLsb' lo len = high.extractLsb' (lo - v) len :=
  BitVec.extractLsb'_append_eq_of_le h

/-- A field inside the lowest part of a word, indexed likewise. -/
theorem extractLsb'_append_of_add_le {u v lo len : Nat} {high : BitVec u} {low : BitVec v} (h : lo + len ≤ v) :
    (no_index (high ++ low)).extractLsb' lo len = low.extractLsb' lo len :=
  BitVec.extractLsb'_append_eq_of_add_le h

/-- A bit is a field of one bit. -/
theorem bitAt_eq_fieldAt (w : Word) (i : Nat) : bitAt w i = (fieldAt w i 1 == 1#1) :=
  BitVec.getLsbD_eq_extractLsb' w i

theorem oneBit_beq_one (b : Bool) : (oneBit b == 1#1) = b := by cases b <;> rfl

theorem oneBit_bitAt (w : Word) (i : Nat) : oneBit (bitAt w i) = fieldAt w i 1 := by
  rw [bitAt_eq_fieldAt]
  generalize fieldAt w i 1 = f
  revert f
  decide

/-- The AP field in the two parts that the formats place apart (R72). -/
theorem ap_of_parts (ap : BitVec 3) : ap.extractLsb' 2 1 ++ ap.extractLsb' 0 2 = ap := by
  rw [BitVec.extractLsb'_append_extractLsb'_eq_extractLsb' (by decide)]
  exact BitVec.extractLsb'_eq_self

/-- The base of a Supersection in the three parts that R65 places apart. -/
theorem supersectionBase_of_parts (base : BitVec 16) :
    base.extractLsb' 12 4 ++ base.extractLsb' 8 4 ++ base.extractLsb' 0 8 = base := by
  rw [BitVec.extractLsb'_append_extractLsb'_eq_extractLsb' (by decide),
    BitVec.extractLsb'_append_extractLsb'_eq_extractLsb' (by decide)]
  exact BitVec.extractLsb'_eq_self

/-- Every descriptor's word has the fixed bits of its row of the opcode table. -/
theorem opcodeRow (i : Instr) : Laws.OpcodeRow.Statement i := by
  cases i with
  | l1Fault ign => exact Laws.OpcodeRow.l1Fault ign
  | l1PageTable d => exact Laws.OpcodeRow.l1PageTable d
  | l1Section d => exact Laws.OpcodeRow.l1Section d
  | l1Supersection d => exact Laws.OpcodeRow.l1Supersection d
  | l2Fault ign => exact Laws.OpcodeRow.l2Fault ign
  | l2LargePage d => exact Laws.OpcodeRow.l2LargePage d
  | l2SmallPage d => exact Laws.OpcodeRow.l2SmallPage d

/-- A bit that the row of the opcode table fixes. -/
theorem bitAt_encode {i : Instr} {k : Nat} {b : Bool}
    (hmask : bitAt (Laws.opcodeMask i) k = true := by simp [Laws.opcodeMask, bitAt])
    (hmatch : bitAt (Laws.opcodeMatch i) k = b := by simp [Laws.opcodeMatch, bitAt]) : bitAt (encode i) k = b := by
  have hrow : encode i &&& Laws.opcodeMask i = Laws.opcodeMatch i := opcodeRow i
  rw [bitAt] at hmask
  simpa [← hrow, bitAt, hmask] using hmatch

/-! ### The fields read back from the word of a descriptor -/

theorem pageTableOfWord_encode (d : PageTableDesc) : pageTableOfWord (encode (.l1PageTable d)) = d := by
  simp [encode, pageTableOfWord, fieldAt, bitAt_eq_fieldAt, extractLsb'_append_of_le, extractLsb'_append_of_add_le,
    oneBit_beq_one]

theorem sectionOfWord_encode (d : SectionDesc) : sectionOfWord (encode (.l1Section d)) = d := by
  simp [encode, sectionOfWord, fieldAt, bitAt_eq_fieldAt, extractLsb'_append_of_le, extractLsb'_append_of_add_le,
    oneBit_beq_one, ap_of_parts]

theorem supersectionOfWord_encode (d : SupersectionDesc) : supersectionOfWord (encode (.l1Supersection d)) = d := by
  simp [encode, supersectionOfWord, fieldAt, bitAt_eq_fieldAt, extractLsb'_append_of_le, extractLsb'_append_of_add_le,
    oneBit_beq_one, ap_of_parts, supersectionBase_of_parts]

theorem largePageOfWord_encode (d : LargePageDesc) : largePageOfWord (encode (.l2LargePage d)) = d := by
  simp [encode, largePageOfWord, fieldAt, bitAt_eq_fieldAt, extractLsb'_append_of_le, extractLsb'_append_of_add_le,
    oneBit_beq_one, ap_of_parts]

theorem smallPageOfWord_encode (d : SmallPageDesc) : smallPageOfWord (encode (.l2SmallPage d)) = d := by
  simp [encode, smallPageOfWord, fieldAt, bitAt_eq_fieldAt, extractLsb'_append_of_le, extractLsb'_append_of_add_le,
    oneBit_beq_one, ap_of_parts]

theorem ignoredBits_encode (ign : BitVec 30) : fieldAt (ign ++ 0#2) 2 30 = ign :=
  BitVec.extractLsb'_append_eq_left

/-! ### The rows of the type tables -/

theorem decodeFirst_pageTable {cfg : Config} {w : Word} (h1 : bitAt w 1 = false) (h0 : bitAt w 0 = true) :
    decodeFirst cfg w = .ok (.l1PageTable (pageTableOfWord w)) := by
  simp [decodeFirst, h1, h0]

theorem decodeFirst_section {cfg : Config} {w : Word} (h1 : bitAt w 1 = true)
    (hpxn : bitAt w 0 = false ∨ cfg.pxnSupported = true) (h18 : bitAt w 18 = false) :
    decodeFirst cfg w = .ok (.l1Section (sectionOfWord w)) := by
  rcases hpxn with h | h <;> simp [decodeFirst, h1, h, h18]

theorem decodeFirst_supersection {cfg : Config} {w : Word} (h1 : bitAt w 1 = true)
    (hpxn : bitAt w 0 = false ∨ cfg.pxnSupported = true) (h18 : bitAt w 18 = true) :
    decodeFirst cfg w = .ok (.l1Supersection (supersectionOfWord w)) := by
  rcases hpxn with h | h <;> simp [decodeFirst, h1, h, h18]

theorem decodeFirst_reserved {cfg : Config} {w : Word} (h1 : bitAt w 1 = true) (h0 : bitAt w 0 = true)
    (hpxn : cfg.pxnSupported = false) : decodeFirst cfg w = .error .l1Reserved := by
  simp [decodeFirst, h1, h0, hpxn]

theorem decodeSecond_largePage {w : Word} (h1 : bitAt w 1 = false) (h0 : bitAt w 0 = true) :
    decodeSecond w = .l2LargePage (largePageOfWord w) := by
  simp [decodeSecond, h1, h0]

theorem decodeSecond_smallPage {w : Word} (h1 : bitAt w 1 = true) :
    decodeSecond w = .l2SmallPage (smallPageOfWord w) := by
  simp [decodeSecond, h1]

/-- Settles O1, by the descriptor type: the fixed bits of its row lead the decoder to the type, and the fields read back. For the
two first-level mappings the type also needs bit[0], which is the PXN field (R61, R66). -/
theorem decodeOfEncodedDescriptor : Obligations.DecodeOfEncodedDescriptor := by
  intro cfg i hwf
  cases i with
  | l1Fault ign =>
    have htype : (encode (.l1Fault ign)).extractLsb 1 0 = 0b00#2 :=
      (typeBits_eq_iff (hi := false) (lo := false)).mpr ⟨bitAt_encode, bitAt_encode⟩
    have hdecode := decodeWord_of_typeBits_00 htype cfg .first
    rwa [encode, ignoredBits_encode] at hdecode
  | l1PageTable d =>
    have hdecode := decodeFirst_pageTable (cfg := cfg) (w := encode (.l1PageTable d)) bitAt_encode bitAt_encode
    rwa [pageTableOfWord_encode] at hdecode
  | l1Section d =>
    have h0 : bitAt (encode (.l1Section d)) 0 = d.pxn := congrArg SectionDesc.pxn (sectionOfWord_encode d)
    have hpxn : bitAt (encode (.l1Section d)) 0 = false ∨ cfg.pxnSupported = true := by
      rw [h0]
      simpa [Instr.wellFormed, or_comm] using hwf
    have hdecode := decodeFirst_section bitAt_encode hpxn bitAt_encode
    rwa [sectionOfWord_encode] at hdecode
  | l1Supersection d =>
    have h0 : bitAt (encode (.l1Supersection d)) 0 = d.pxn :=
      congrArg SupersectionDesc.pxn (supersectionOfWord_encode d)
    have hpxn : bitAt (encode (.l1Supersection d)) 0 = false ∨ cfg.pxnSupported = true := by
      rw [h0]
      simpa [Instr.wellFormed, or_comm] using hwf
    have hdecode := decodeFirst_supersection bitAt_encode hpxn bitAt_encode
    rwa [supersectionOfWord_encode] at hdecode
  | l2Fault ign =>
    have htype : (encode (.l2Fault ign)).extractLsb 1 0 = 0b00#2 :=
      (typeBits_eq_iff (hi := false) (lo := false)).mpr ⟨bitAt_encode, bitAt_encode⟩
    have hdecode := decodeWord_of_typeBits_00 htype cfg .second
    rwa [encode, ignoredBits_encode] at hdecode
  | l2LargePage d =>
    have hdecode := decodeSecond_largePage (w := encode (.l2LargePage d)) bitAt_encode bitAt_encode
    rw [largePageOfWord_encode] at hdecode
    exact congrArg Except.ok hdecode
  | l2SmallPage d =>
    have hdecode := decodeSecond_smallPage (w := encode (.l2SmallPage d)) bitAt_encode
    rw [smallPageOfWord_encode] at hdecode
    exact congrArg Except.ok hdecode

/-! ### The word read back from the fields of a descriptor -/

/-- A bit that the format fixes is the bit of the word that the format writes there. -/
theorem ofBool_eq_fieldAt {w : Word} {i : Nat} {b : Bool} (h : bitAt w i = b) : BitVec.ofBool b = fieldAt w i 1 := by
  rw [← oneBit_bitAt, h, oneBit]

/-- The two type bits of a format are the two lowest bits of the word. -/
theorem typeBits_eq_fieldAt {w : Word} {hi lo : Bool} (h1 : bitAt w 1 = hi) (h0 : bitAt w 0 = lo) :
    BitVec.ofBool hi ++ BitVec.ofBool lo = fieldAt w 0 2 :=
  (typeBits_eq_iff.mpr ⟨h1, h0⟩).symm

theorem encode_ignoredBits {w : Word} (h1 : bitAt w 1 = false) (h0 : bitAt w 0 = false) : fieldAt w 2 30 ++ 0#2 = w := by
  have htype : 0#2 = fieldAt w 0 2 := typeBits_eq_fieldAt h1 h0
  rw [htype, fieldAt, fieldAt, BitVec.extractLsb'_append_extractLsb'_eq_extractLsb' (by decide)]
  exact BitVec.extractLsb'_eq_self

theorem encode_pageTableOfWord {w : Word} (h1 : bitAt w 1 = false) (h0 : bitAt w 0 = true) :
    encode (.l1PageTable (pageTableOfWord w)) = w := by
  have htype : 1#2 = fieldAt w 0 2 := typeBits_eq_fieldAt h1 h0
  simp only [encode, pageTableOfWord, htype, oneBit_bitAt, fieldAt]
  repeat rw [BitVec.extractLsb'_append_extractLsb'_eq_extractLsb' (by decide)]
  exact BitVec.extractLsb'_eq_self

theorem encode_sectionOfWord {w : Word} (h1 : bitAt w 1 = true) (h18 : bitAt w 18 = false) :
    encode (.l1Section (sectionOfWord w)) = w := by
  have hone : 1#1 = fieldAt w 1 1 := ofBool_eq_fieldAt h1
  have hzero : 0#1 = fieldAt w 18 1 := ofBool_eq_fieldAt h18
  simp only [encode, sectionOfWord, hone, hzero, oneBit_bitAt, fieldAt, BitVec.extractLsb'_append_eq_left,
    BitVec.extractLsb'_append_eq_right]
  repeat rw [BitVec.extractLsb'_append_extractLsb'_eq_extractLsb' (by decide)]
  exact BitVec.extractLsb'_eq_self

theorem encode_supersectionOfWord {w : Word} (h1 : bitAt w 1 = true) (h18 : bitAt w 18 = true) :
    encode (.l1Supersection (supersectionOfWord w)) = w := by
  have hone : 1#1 = fieldAt w 1 1 := ofBool_eq_fieldAt h1
  have hsuper : 1#1 = fieldAt w 18 1 := ofBool_eq_fieldAt h18
  have hhigh : (supersectionOfWord w).base.extractLsb' 12 4 = fieldAt w 5 4 := supersectionOfWord_base_high w
  have hmid : (supersectionOfWord w).base.extractLsb' 8 4 = fieldAt w 20 4 := supersectionOfWord_base_mid w
  have hlow : (supersectionOfWord w).base.extractLsb' 0 8 = fieldAt w 24 8 := supersectionOfWord_base_low w
  rw [encode]
  nth_rewrite 1 [hsuper]
  simp only [hone, hhigh, hmid, hlow]
  simp only [supersectionOfWord, oneBit_bitAt, fieldAt, BitVec.extractLsb'_append_eq_left,
    BitVec.extractLsb'_append_eq_right]
  repeat rw [BitVec.extractLsb'_append_extractLsb'_eq_extractLsb' (by decide)]
  exact BitVec.extractLsb'_eq_self

theorem encode_largePageOfWord {w : Word} (h1 : bitAt w 1 = false) (h0 : bitAt w 0 = true) :
    encode (.l2LargePage (largePageOfWord w)) = w := by
  have htype : 1#2 = fieldAt w 0 2 := typeBits_eq_fieldAt h1 h0
  simp only [encode, largePageOfWord, htype, oneBit_bitAt, fieldAt, BitVec.extractLsb'_append_eq_left,
    BitVec.extractLsb'_append_eq_right]
  repeat rw [BitVec.extractLsb'_append_extractLsb'_eq_extractLsb' (by decide)]
  exact BitVec.extractLsb'_eq_self

theorem encode_smallPageOfWord {w : Word} (h1 : bitAt w 1 = true) : encode (.l2SmallPage (smallPageOfWord w)) = w := by
  have hone : 1#1 = fieldAt w 1 1 := ofBool_eq_fieldAt h1
  simp only [encode, smallPageOfWord, hone, oneBit_bitAt, fieldAt, BitVec.extractLsb'_append_eq_left,
    BitVec.extractLsb'_append_eq_right]
  repeat rw [BitVec.extractLsb'_append_extractLsb'_eq_extractLsb' (by decide)]
  exact BitVec.extractLsb'_eq_self

/-- What the first-level decoder reads is the word's own descriptor. -/
theorem encode_of_decodeFirst {cfg : Config} {w : Word} {i : Instr} (h : decodeFirst cfg w = .ok i) :
    encode i = w ∧ i.level = .first ∧ i.wellFormed cfg = true := by
  obtain ⟨h1, h0, e⟩ | ⟨h1, h0, e⟩ | ⟨h1, hpxn, h18, e⟩ | ⟨h1, hpxn, h18, e⟩ | ⟨-, -, -, e⟩ := decodeFirst_cases cfg w <;>
    cases e.symm.trans h
  · exact ⟨encode_ignoredBits h1 h0, rfl, rfl⟩
  · exact ⟨encode_pageTableOfWord h1 h0, rfl, rfl⟩
  · exact ⟨encode_sectionOfWord h1 h18, rfl, by rcases hpxn with h | h <;> simp [Instr.wellFormed, sectionOfWord, h]⟩
  · exact ⟨encode_supersectionOfWord h1 h18, rfl,
      by rcases hpxn with h | h <;> simp [Instr.wellFormed, supersectionOfWord, h]⟩

/-- What the second-level decoder reads is the word's own descriptor. -/
theorem encode_decodeSecond (w : Word) : encode (decodeSecond w) = w := by
  obtain ⟨h1, h0, e⟩ | ⟨h1, h0, e⟩ | ⟨h1, e⟩ := decodeSecond_cases w <;> rw [e]
  · exact encode_ignoredBits h1 h0
  · exact encode_largePageOfWord h1 h0
  · exact encode_smallPageOfWord h1

theorem decodeSecond_level (w : Word) : (decodeSecond w).level = .second := by
  obtain ⟨-, -, e⟩ | ⟨-, -, e⟩ | ⟨-, e⟩ := decodeSecond_cases w <;> rw [e] <;> rfl

theorem wellFormed_of_level_second {i : Instr} (h : i.level = .second) (cfg : Config) : i.wellFormed cfg = true := by
  cases i <;> simp_all [Instr.level, Instr.wellFormed]

/-- Settles O2, level by level. -/
theorem encodeOfDecodedWord : Obligations.EncodeOfDecodedWord := by
  intro cfg lvl w i h
  cases lvl with
  | first => exact encode_of_decodeFirst h
  | second =>
    obtain rfl := Except.ok.inj h
    exact ⟨encode_decodeSecond w, decodeSecond_level w, wellFormed_of_level_second (decodeSecond_level w) cfg⟩

/-! ### The words of seven descriptors -/

/-- Settles O9, by evaluating the decoder on each of the seven words. -/
theorem writtenWordsDecode : Obligations.WrittenWordsDecode :=
  ⟨by decide, by decide, by decide, by decide, by decide, by decide, by decide⟩

end Sys2Proof

/-! PROOFS. The type tables of both levels, the field positions, and the bytes of a word (30_encoding.md, R60 to R67). -/

namespace Sys2Proof

open Machine

/-! ### The type tables -/

/-- The bits that the decoder tests, from a row of the tables of R61 and R67. -/
theorem bits_of_typeBits {w : Word} (hi lo : Bool) (h : w.extractLsb 1 0 = BitVec.ofBool hi ++ BitVec.ofBool lo) :
    bitAt w 1 = hi ∧ bitAt w 0 = lo :=
  typeBits_eq_iff.mp h

/-- Settles O4, row by row. -/
theorem firstLevelTypeDecode : Obligations.FirstLevelTypeDecode := by
  intro cfg w
  refine ⟨?fault, ?pageTable, ?sectionPlain, ?supersectionPlain, ?sectionPxn, ?supersectionPxn, ?reserved⟩
  case fault =>
    intro h
    exact ⟨_, decodeWord_of_typeBits_00 h cfg .first⟩
  case pageTable =>
    intro h
    obtain ⟨h1, h0⟩ := bits_of_typeBits false true h
    exact ⟨_, decodeFirst_pageTable h1 h0⟩
  case sectionPlain =>
    intro h h18
    obtain ⟨h1, h0⟩ := bits_of_typeBits true false h
    exact ⟨_, decodeFirst_section h1 (.inl h0) h18, h0⟩
  case supersectionPlain =>
    intro h h18
    obtain ⟨h1, h0⟩ := bits_of_typeBits true false h
    exact ⟨_, decodeFirst_supersection h1 (.inl h0) h18, h0⟩
  case sectionPxn =>
    intro h hpxn h18
    obtain ⟨h1, h0⟩ := bits_of_typeBits true true h
    exact ⟨_, decodeFirst_section h1 (.inr hpxn) h18, h0⟩
  case supersectionPxn =>
    intro h hpxn h18
    obtain ⟨h1, h0⟩ := bits_of_typeBits true true h
    exact ⟨_, decodeFirst_supersection h1 (.inr hpxn) h18, h0⟩
  case reserved =>
    intro h hpxn
    obtain ⟨h1, h0⟩ := bits_of_typeBits true true h
    exact decodeFirst_reserved h1 h0 hpxn

/-- Settles O5, row by row. -/
theorem secondLevelTypeDecode : Obligations.SecondLevelTypeDecode := by
  intro cfg w
  refine ⟨?fault, ?largePage, ?smallPage, ?smallPageXn⟩
  case fault =>
    intro h
    exact ⟨_, decodeWord_of_typeBits_00 h cfg .second⟩
  case largePage =>
    intro h
    obtain ⟨h1, h0⟩ := bits_of_typeBits false true h
    exact ⟨_, congrArg Except.ok (decodeSecond_largePage h1 h0)⟩
  case smallPage =>
    intro h
    obtain ⟨h1, h0⟩ := bits_of_typeBits true false h
    exact ⟨_, congrArg Except.ok (decodeSecond_smallPage h1), h0⟩
  case smallPageXn =>
    intro h
    obtain ⟨h1, h0⟩ := bits_of_typeBits true true h
    exact ⟨_, congrArg Except.ok (decodeSecond_smallPage h1), h0⟩

/-- Settles O6, by the one word that each of the two types is decoded from. -/
theorem pageTableAndSectionFieldPositions : Obligations.PageTableAndSectionFieldPositions := by
  intro cfg w
  constructor
  · intro d h
    obtain ⟨h1, h0, rfl⟩ := decodeWord_eq_pageTable h
    exact ⟨typeBits_eq_iff.mpr ⟨h1, h0⟩, rfl, rfl, rfl, rfl, rfl, rfl⟩
  · intro d h
    obtain ⟨h1, h18, rfl⟩ := decodeWord_eq_section h
    exact ⟨h1, h18, rfl, rfl, rfl, rfl, rfl, rfl, rfl, rfl, rfl, rfl, rfl, rfl⟩

/-! ### The four bytes of a word -/

/-- A word is its four bytes, the highest first. -/
theorem word_of_bytes (w : Word) :
    w.extractLsb' 24 8 ++ w.extractLsb' 16 8 ++ w.extractLsb' 8 8 ++ w.extractLsb' 0 8 = w := by
  repeat rw [BitVec.extractLsb'_append_extractLsb'_eq_extractLsb' (by decide)]
  exact BitVec.extractLsb'_eq_self

/-- A word in memory is four bytes, in either order, and those bytes hold the word (R46). -/
theorem exists_bytesOfWord (bigEndian : Bool) (w : Word) :
    ∃ b0 b1 b2 b3, bytesOfWord bigEndian w = [b0, b1, b2, b3] ∧ wordOfBytes bigEndian b0 b1 b2 b3 = w := by
  cases bigEndian with
  | false => exact ⟨_, _, _, _, rfl, word_of_bytes w⟩
  | true => exact ⟨_, _, _, _, rfl, word_of_bytes w⟩

theorem decode_bytesOfWord (cfg : Config) (lvl : Level) (w : Word) :
    decode cfg lvl (bytesOfWord cfg.walkBigEndian w) = decodeWord cfg lvl w := by
  obtain ⟨b0, b1, b2, b3, hbytes, hword⟩ := exists_bytesOfWord cfg.walkBigEndian w
  rw [hbytes, decode, hword]

/-- Settles O3. -/
theorem decodeOfBytesInMemory : Obligations.DecodeOfBytesInMemory := by
  intro cfg lvl
  refine ⟨decode_bytesOfWord cfg lvl, fun bs hlen => ?_⟩
  unfold decode
  split
  · exact absurd rfl hlen
  · rfl

end Sys2Proof

/-! PROOFS. Descriptor addresses as arithmetic (10_state.md section 3, 20_memory.md section 1, 43_ttbr_selection.md; R44, R45,
R131 to R133). -/

namespace Sys2Proof.Machine

/-! ### Fields, shifts and concatenations as numbers -/

theorem fieldAt_toNat (w : Word) (lo len : Nat) : (fieldAt w lo len).toNat = w.toNat / 2 ^ lo % 2 ^ len := by
  rw [fieldAt, BitVec.extractLsb'_toNat, Nat.shiftRight_eq_div_pow]

theorem append_toNat {m n : Nat} (x : BitVec m) (y : BitVec n) : (x ++ y).toNat = x.toNat * 2 ^ n + y.toNat := by
  rw [BitVec.toNat_append, ← Nat.shiftLeft_add_eq_or_of_lt y.isLt, Nat.shiftLeft_eq]

/-- The low `k` bits cleared, as arithmetic. -/
theorem shiftRight_shiftLeft_toNat {n : Nat} (x : BitVec n) (k : Nat) :
    ((x >>> k) <<< k).toNat = x.toNat / 2 ^ k * 2 ^ k := by
  rw [BitVec.toNat_shiftLeft, BitVec.toNat_ushiftRight, Nat.shiftRight_eq_div_pow, Nat.shiftLeft_eq]
  exact Nat.mod_eq_of_lt ((Nat.div_mul_le_self _ _).trans_lt x.isLt)

/-- A number below `2 ^ k` put into the cleared bits is added. -/
theorem shiftRight_shiftLeft_or_toNat {n : Nat} (x y : BitVec n) {k : Nat} (hy : y.toNat < 2 ^ k) :
    ((x >>> k) <<< k ||| y).toNat = x.toNat / 2 ^ k * 2 ^ k + y.toNat := by
  rw [BitVec.toNat_or, shiftRight_shiftLeft_toNat, Nat.mul_comm, Nat.two_pow_add_eq_or_of_lt hy]

/-! ### Addresses that agree above some bit -/

theorem toNat_div_eq {va va' : Word} {k : Nat} (h : va' >>> k = va >>> k) : va'.toNat / 2 ^ k = va.toNat / 2 ^ k := by
  simpa [Nat.shiftRight_eq_div_pow] using congrArg BitVec.toNat h

/-- Addresses that agree from bit `k` up agree from every higher bit up. -/
theorem shiftRight_eq_of_le {va va' : Word} {k m : Nat} (hkm : k ≤ m) (h : va' >>> k = va >>> k) :
    va' >>> m = va >>> m := by
  rw [← Nat.add_sub_of_le hkm, BitVec.shiftRight_add, BitVec.shiftRight_add, h]

/-! ### Which base register -/

theorem ttbcrN_eq (r : ControlRegs) : ttbcrN r = r.ttbcr.toNat % 8 := by
  rw [ttbcrN, fieldAt_toNat, Nat.pow_zero, Nat.div_one]
  rfl

theorem ttbcrN_le (r : ControlRegs) : ttbcrN r ≤ 7 := by
  rw [ttbcrN_eq]
  omega

/-- R131: TTBR0 serves the addresses below `2 ^ (32 - N)`. -/
theorem usesTTBR0_iff_lt (r : ControlRegs) (va : Word) : usesTTBR0 r va = true ↔ va.toNat < 2 ^ (32 - ttbcrN r) := by
  have htop : va >>> (32 - ttbcrN r) = 0 ↔ va.toNat < 2 ^ (32 - ttbcrN r) := by
    rw [← BitVec.toNat_inj, BitVec.toNat_ushiftRight, Nat.shiftRight_eq_div_pow]
    exact Nat.div_eq_zero_iff_lt (Nat.two_pow_pos _)
  rw [usesTTBR0, Bool.or_eq_true, beq_iff_eq, beq_iff_eq, htop]
  refine or_iff_right_of_imp fun hzero => ?_
  rw [hzero]
  exact va.isLt

/-- A word is below `2 ^ k` exactly when its bits from `k` up are zero. -/
theorem toNat_lt_two_pow_iff (w : Word) (k : Nat) :
    w.toNat < 2 ^ k ↔ ∀ i, k ≤ i → i < 32 → w.getLsbD i = false := by
  constructor
  · intro h i hi _
    exact Nat.testBit_lt_two_pow (h.trans_le (Nat.pow_le_pow_right (by decide) hi))
  · intro h
    refine Nat.lt_pow_two_of_testBit _ fun i hi => ?_
    by_cases hlt : i < 32
    · exact h i hi hlt
    · exact BitVec.getLsbD_of_ge w i (by omega)

/-- Settles O12: the bits tested are those from `32 - N` up, and N = 0 leaves none of them. -/
theorem ttbr0ServesTheLowAddresses : Obligations.Ttbr0ServesTheLowAddresses := by
  intro r va
  refine ⟨ttbcrN_eq r, ?_, usesTTBR0_iff_lt r va⟩
  rw [usesTTBR0_iff_lt, toNat_lt_two_pow_iff]
  refine (or_iff_right_of_imp fun hzero i hi hlt => ?_).symm
  omega

/-! ### The first-level descriptor -/

/-- The number of bits of the first-level index, 2 less than the number of base bits that are not used. -/
def l1IndexBits (r : ControlRegs) (va : Word) : Nat := if usesTTBR0 r va then 12 - ttbcrN r else 12

/-- The register that serves the address. -/
def l1TableReg (r : ControlRegs) (va : Word) : Word := if usesTTBR0 r va then r.ttbr0 else r.ttbr1

theorem l1TableBase_eq (r : ControlRegs) (va : Word) :
    l1TableBase r va = clearBelow (l1TableReg r va) (l1IndexBits r va + 2) := by
  have hN := ttbcrN_le r
  unfold l1TableBase l1TableReg l1IndexBits
  split
  · rw [show 12 - ttbcrN r + 2 = 14 - ttbcrN r by omega]
  · rfl

/-- R132: the index is the address in MBytes, modulo the size of the table. -/
theorem l1Index_toNat (r : ControlRegs) (va : Word) :
    (l1Index r va).toNat = va.toNat / 2 ^ 20 % 2 ^ l1IndexBits r va := by
  have hN := ttbcrN_le r
  unfold l1Index l1IndexBits
  split
  · have hsplit : 2 ^ 32 = 2 ^ (32 - ttbcrN r) * 2 ^ ttbcrN r := by rw [← Nat.pow_add]; congr 1; omega
    rw [BitVec.toNat_ushiftRight, BitVec.toNat_ushiftRight, BitVec.toNat_shiftLeft, Nat.shiftRight_eq_div_pow,
      Nat.shiftRight_eq_div_pow, Nat.shiftLeft_eq, hsplit, Nat.mul_mod_mul_right,
      Nat.mul_div_cancel _ (Nat.two_pow_pos _), show 32 - ttbcrN r = 20 + (12 - ttbcrN r) by omega, Nat.pow_add,
      Nat.mod_mul_right_div_self]
  · rw [BitVec.toNat_ushiftRight, Nat.shiftRight_eq_div_pow]
    have := va.isLt
    omega

theorem l1Index_lt (r : ControlRegs) (va : Word) : (l1Index r va).toNat < 2 ^ l1IndexBits r va := by
  rw [l1Index_toNat]
  exact Nat.mod_lt _ (Nat.two_pow_pos _)

theorem l1TableBase_toNat (r : ControlRegs) (va : Word) :
    (l1TableBase r va).toNat =
      (l1TableReg r va).toNat / 2 ^ (l1IndexBits r va + 2) * 2 ^ (l1IndexBits r va + 2) := by
  rw [l1TableBase_eq, clearBelow, shiftRight_shiftLeft_toNat]

/-- R133: the index fills the bits of the base register that are not used. -/
theorem l1DescAddr_toNat (r : ControlRegs) (va : Word) :
    (l1DescAddr r va).toNat = (l1TableBase r va).toNat + 4 * (l1Index r va).toNat := by
  have hbits : l1IndexBits r va ≤ 12 := by unfold l1IndexBits; split <;> omega
  have hle : 2 ^ l1IndexBits r va ≤ 2 ^ 12 := Nat.pow_le_pow_right (by decide) hbits
  have hlt := l1Index_lt r va
  have hshift : (l1Index r va <<< 2).toNat = 4 * (l1Index r va).toNat := by
    rw [BitVec.toNat_shiftLeft, Nat.shiftLeft_eq]
    omega
  have hfit : (l1Index r va <<< 2).toNat < 2 ^ (l1IndexBits r va + 2) := by
    rw [hshift, Nat.pow_add]
    omega
  rw [l1DescAddr, l1TableBase_toNat, l1TableBase_eq, clearBelow, shiftRight_shiftLeft_or_toNat _ _ hfit, hshift]

/-- Settles O13, by the two sides of the split of the address space. -/
theorem firstLevelDescriptorAddress : Obligations.FirstLevelDescriptorAddress := by
  intro r va
  have hN := ttbcrN_le r
  have haddr := l1DescAddr_toNat r va
  rw [l1TableBase_toNat, l1Index_toNat, l1TableReg, l1IndexBits] at haddr
  constructor
  · intro hlow
    have huses : usesTTBR0 r va = true := (usesTTBR0_iff_lt r va).mpr hlow
    rw [haddr, if_pos huses, if_pos huses, show 12 - ttbcrN r + 2 = 14 - ttbcrN r by omega]
  · intro hhigh
    have huses : ¬ usesTTBR0 r va = true := fun h => absurd ((usesTTBR0_iff_lt r va).mp h) (by omega)
    have := va.isLt
    rw [haddr, if_neg huses, if_neg huses]
    omega

/-- Settles O14: the entries are `2 ^ l1IndexBits`, and the unused bits of the base are the bits of 4 times their number. -/
theorem firstLevelDescriptorInsideItsTable : Obligations.FirstLevelDescriptorInsideItsTable := by
  intro r va
  have hentries : (if usesTTBR0 r va then 4096 / 2 ^ ttbcrN r else 4096) = 2 ^ l1IndexBits r va := by
    have hN := ttbcrN_le r
    unfold l1IndexBits
    split
    · exact Nat.pow_div (x := 2) (m := 12) (by omega) (by decide)
    · rfl
  intro entries
  rw [show entries = 2 ^ l1IndexBits r va from hentries]
  refine ⟨l1DescAddr_toNat r va, l1Index_lt r va, ?_⟩
  rw [l1TableBase_toNat, Nat.pow_add, Nat.mul_comm 4]
  exact Nat.mul_mod_left _ _

/-! ### The second-level descriptor -/

theorem l2DescAddr_toNat (p : PageTableDesc) (va : Word) :
    (l2DescAddr p va).toNat = p.base.toNat * 1024 + 4 * (va.toNat / 2 ^ 12 % 256) := by
  have haddr : (l2DescAddr p va).toNat = (p.base.toNat * 2 ^ 8 + va.toNat / 2 ^ 12 % 2 ^ 8) * 2 ^ 2 + 0 := by
    rw [l2DescAddr, append_toNat, append_toNat, fieldAt_toNat]
    rfl
  rw [haddr]
  omega

/-- Settles O15. -/
theorem secondLevelDescriptorAddress : Obligations.SecondLevelDescriptorAddress :=
  l2DescAddr_toNat

/-- Settles O25: the state that R81 gives fetches at the second-level address below the descriptor. -/
theorem pageTableHandsTheWalkDown : Obligations.PageTableHandsTheWalkDown := by
  intro d s
  exact ⟨_, rfl, rfl, l2DescAddr_toNat d s.req.va⟩

end Sys2Proof.Machine

/-! PROOFS. The outcomes of the permission check (44_access_permissions.md, R142 to R145). -/

namespace Sys2Proof.Machine

/-- Settles O18: each row is the row of the definition. -/
theorem fullPermissionTable : Obligations.FullPermissionTable := by
  intro priv
  exact ⟨rfl, rfl, rfl, rfl, rfl, rfl, rfl, rfl⟩

/-- R105, with the privilege levels that R145 names. -/
theorem execNever_eq_false_iff (a : Attrs) (pl : PrivLevel) :
    execNever a pl = false ↔ a.xn = false ∧ (a.pxn = false ∨ pl = .pl0) := by
  rw [execNever, Bool.or_eq_false_iff, Bool.and_eq_false_iff]
  cases pl <;> simp [privileged]

/-- R144: the verdicts of the three kinds of access, from the rights that the AP bits give. -/
theorem checkPermission_of_rights {r : ControlRegs} {a : Attrs} {pl : PrivLevel} {rights : Rights}
    (h : perms (sctlrAfe r) a.ap (privileged pl) = some rights) :
    checkPermission r a .read pl = (if rights.read then .permitted else .denied) ∧
    checkPermission r a .write pl = (if rights.write then .permitted else .denied) ∧
    checkPermission r a .execute pl =
      (if rights.read ∧ a.xn = false ∧ (a.pxn = false ∨ pl = .pl0) then .permitted else .denied) := by
  simp only [← execNever_eq_false_iff]
  unfold checkPermission
  rw [h]
  obtain ⟨mayRead, mayWrite⟩ := rights
  refine ⟨?read, ?write, ?execute⟩
  case read => cases mayRead <;> rfl
  case write => cases mayWrite <;> rfl
  case execute => cases mayRead <;> cases execNever a pl <;> rfl

theorem checkPermission_reserved {r : ControlRegs} {a : Attrs} {pl : PrivLevel} (kind : AccessKind)
    (h : perms (sctlrAfe r) a.ap (privileged pl) = none) : checkPermission r a kind pl = .reserved := by
  unfold checkPermission
  rw [h]

/-- The AP values that R145 lists as readable and as writable with SCTLR.AFE = 0, against R142. -/
theorem perms_full_lists (pl : PrivLevel) : ∀ ap : BitVec 3, ap ≠ 0b100#3 →
    perms false ap (privileged pl) =
      some { read := decide (ap ∈ if pl = .pl0 then [2, 3, 6, 7] else [1, 2, 3, 5, 6, 7]),
             write := decide (ap ∈ if pl = .pl0 then [3] else [1, 2, 3]) } := by
  cases pl <;> decide

/-- The values of AP[2:1] that R145 lists as readable and as writable with SCTLR.AFE = 1, against R141. -/
theorem perms_simplified_lists (pl : PrivLevel) : ∀ ap : BitVec 3,
    perms true ap (privileged pl) =
      some { read := decide (ap.extractLsb 2 1 ∈ if pl = .pl0 then [1, 3] else [0, 1, 2, 3]),
             write := decide (ap.extractLsb 2 1 ∈ if pl = .pl0 then [1] else [0, 1]) } := by
  cases pl <;> decide

/-- Settles O19, by the rights of each AP value. -/
theorem permissionOutcomesFullModel : Obligations.PermissionOutcomesFullModel := by
  intro r a pl hafe readers writers
  constructor
  · intro hap kind
    refine checkPermission_reserved kind ?_
    rw [hafe, hap]
    rfl
  · intro hap
    have hrights := perms_full_lists pl a.ap hap
    rw [← hafe] at hrights
    simpa [readers, writers] using checkPermission_of_rights hrights

/-- Settles O20, likewise by AP[2:1]. -/
theorem permissionOutcomesSimplifiedModel : Obligations.PermissionOutcomesSimplifiedModel := by
  intro r a pl hafe readers writers
  have hrights := perms_simplified_lists pl a.ap
  rw [← hafe] at hrights
  simpa [readers, writers] using checkPermission_of_rights hrights

end Sys2Proof.Machine

/-! PROOFS. What each mapping descriptor answers (40_first_level_descriptors.md, 41_second_level_descriptors.md,
60_exceptions.md; R57, R73, R82, R83, R91, R92, R172 to R174). -/

namespace Sys2Proof.Machine

/-! ### What steps 1 to 3 yield from a descriptor, and what the machine does with it -/

/-- What steps 1 to 3 of `Translate` yield from a descriptor: a leaf, or the end of the translation (R57, R73, R80 to R92).
From a Page table descriptor they yield nothing yet: the walk goes on. -/
def descriptorYields (s : State) : Instr → Option WalkResult
  | .l1Fault _ => some (.stop (.responds (.fault .translation .first none)))
  | .l1PageTable _ => none
  | .l1Section d => some (.leaf (leafOfSection s.cfg d s.req.va))
  | .l1Supersection d =>
      some (if s.repetitionBad (l1DescAddr s.regs s.req.va) (encode (.l1Supersection d)) then
              .stop (.unpredictable .repetition)
            else .leaf (leafOfSupersection s.cfg d s.req.va))
  | .l2Fault _ => some (.stop (.responds (.fault .translation .second (some s.parent.domain))))
  | .l2LargePage d =>
      some (if pageTableSbzBad s.cfg s.parent || largePageSbzBad s.cfg d then .stop (.unpredictable .sbzNotZero)
            else if s.repetitionBad (l2DescAddr s.parent s.req.va) (encode (.l2LargePage d)) then
              .stop (.unpredictable .repetition)
            else .leaf (leafOfLargePage s.cfg s.parent d s.req.va))
  | .l2SmallPage d =>
      some (if pageTableSbzBad s.cfg s.parent then .stop (.unpredictable .sbzNotZero)
            else .leaf (leafOfSmallPage s.cfg s.parent d s.req.va))

/-- The end of a translation from what steps 1 to 3 yield: steps 4 to 6 on a leaf (R49). -/
def State.finish (s : State) : WalkResult → StepResult
  | .leaf l => s.useLeaf l
  | .stop t => s.conclude t

/-- The meaning of a descriptor is what steps 1 to 3 yield from it, then steps 4 to 6. -/
theorem exec_of_yields {s : State} {i : Instr} {r : WalkResult} (h : descriptorYields s i = some r) :
    exec i s = s.finish r := by
  cases i with
  | l1PageTable d => cases h
  | l1Fault ign | l1Section d | l2Fault ign => obtain rfl := Option.some.inj h; rfl
  | l1Supersection d =>
    obtain rfl := Option.some.inj h
    simp only [exec, execL1Supersection]
    split <;> rfl
  | l2LargePage d =>
    obtain rfl := Option.some.inj h
    simp only [exec, execL2LargePage]
    split
    · rfl
    · split <;> rfl
  | l2SmallPage d =>
    obtain rfl := Option.some.inj h
    simp only [exec, execL2SmallPage]
    split <;> rfl

/-- A mapping descriptor yields its leaf exactly when it passes step 3. -/
theorem yields_leaf_iff {s : State} {i : Instr} {l : Leaf} :
    descriptorYields s i = some (.leaf l) ↔ mappedLeaf s i = some l ∧ passesStep3 s i = true := by
  cases i with
  | l1Fault ign | l1PageTable d | l2Fault ign => simp [descriptorYields, mappedLeaf]
  | l1Section d => simp [descriptorYields, mappedLeaf, passesStep3]
  | l1Supersection d =>
    simp only [descriptorYields, mappedLeaf, passesStep3]
    split <;> simp [*]
  | l2LargePage d =>
    simp only [descriptorYields, mappedLeaf, passesStep3]
    split
    · next hbad => rcases Bool.or_eq_true_iff.mp hbad with h | h <;> simp [h]
    · next hgood =>
      obtain ⟨hparent, hpage⟩ := Bool.or_eq_false_iff.mp (Bool.not_eq_true _ ▸ hgood)
      split <;> simp [*]
  | l2SmallPage d =>
    simp only [descriptorYields, mappedLeaf, passesStep3]
    split <;> simp [*]

theorem exec_of_mapped {s : State} {i : Instr} {l : Leaf} (hleaf : mappedLeaf s i = some l)
    (hpass : passesStep3 s i = true) : exec i s = s.useLeaf l :=
  exec_of_yields (yields_leaf_iff.mpr ⟨hleaf, hpass⟩)

/-! ### Steps 4 to 6, row by row -/

theorem accessFlagClear_eq_true_iff {r : ControlRegs} {a : Attrs} :
    accessFlagClear r a = true ↔ sctlrAfe r = true ∧ a.ap.getLsbD 0 = false := by
  rw [accessFlagClear, Bool.and_eq_true, Bool.not_eq_true']

theorem accessFlagClear_eq_false_iff {r : ControlRegs} {a : Attrs} :
    accessFlagClear r a = false ↔ (sctlrAfe r = true → a.ap.getLsbD 0 = true) := by
  rw [← Bool.not_eq_true, accessFlagClear_eq_true_iff, not_and, Bool.not_eq_false]

theorem checked_accessFlag {s : State} {l : Leaf} (h : accessFlagClear s.regs l.attrs = true) :
    s.checked l = .responds (.fault .accessFlag l.attrs.level (some l.attrs.domain)) := by
  simp [State.checked, checkLeaf, h]

theorem checked_noAccess {s : State} {l : Leaf} (hflag : accessFlagClear s.regs l.attrs = false)
    (hdom : checkDomain s.regs l.attrs.domain = .noAccess) :
    s.checked l = .responds (.fault .domain l.attrs.level (some l.attrs.domain)) := by
  simp [State.checked, checkLeaf, hflag, hdom]

theorem checked_reservedDomain {s : State} {l : Leaf} (hflag : accessFlagClear s.regs l.attrs = false)
    (hdom : checkDomain s.regs l.attrs.domain = .reserved) : s.checked l = .unpredictable .dacrField0b10 := by
  simp [State.checked, checkLeaf, hflag, hdom]

theorem checked_denied {s : State} {l : Leaf} (hflag : accessFlagClear s.regs l.attrs = false)
    (hdom : checkDomain s.regs l.attrs.domain = .client)
    (hperm : checkPermission s.regs l.attrs s.req.kind s.req.pl = .denied) :
    s.checked l = .responds (.fault .permission l.attrs.level (some l.attrs.domain)) := by
  simp [State.checked, checkLeaf, hflag, hdom, hperm]

theorem checked_reservedAp {s : State} {l : Leaf} (hflag : accessFlagClear s.regs l.attrs = false)
    (hdom : checkDomain s.regs l.attrs.domain = .client)
    (hperm : checkPermission s.regs l.attrs s.req.kind s.req.pl = .reserved) : s.checked l = .unpredictable .ap0b100 := by
  simp [State.checked, checkLeaf, hflag, hdom, hperm]

theorem checked_permitted {s : State} {l : Leaf} (h : accessPermitted s l.attrs) :
    s.checked l = .responds (okResponse s.secure l) := by
  obtain ⟨hflag, hdom | ⟨hdom, hperm⟩⟩ := h
  · simp [State.checked, checkLeaf, hflag, hdom]
  · simp [State.checked, checkLeaf, hflag, hdom, hperm]

/-- The only refusals of steps 4 to 6 (R76). -/
theorem checked_unpredictable {s : State} {l : Leaf} {why : Unpredictable} (h : s.checked l = .unpredictable why) :
    why = .dacrField0b10 ∨ why = .ap0b100 := by
  rw [State.checked] at h
  obtain ⟨-, e⟩ | ⟨-, -, e⟩ | ⟨-, -, e⟩ | ⟨-, -, e⟩ | ⟨-, -, -, e⟩ | ⟨-, -, -, e⟩ | ⟨-, -, -, e⟩ :=
    checkLeaf_cases s.regs s.req s.secure l <;> cases e.symm.trans h
  · exact .inl rfl
  · exact .inr rfl

/-! ### The answers of a mapping descriptor -/

/-- A mapping descriptor whose leaf gets an answer in steps 4 to 6: the leaf is kept and the translation ends. -/
theorem exec_of_checked_responds {i : Instr} {s : State} {l : Leaf} {r : Response} (hleaf : mappedLeaf s i = some l)
    (hpass : passesStep3 s i = true) (hchecked : s.checked l = .responds r) :
    exec i s = .next { s.keep l with result := some r, walk := .idle } := by
  rw [exec_of_mapped hleaf hpass, State.useLeaf, hchecked]
  rfl

theorem exec_of_checked_unpredictable {i : Instr} {s : State} {l : Leaf} {why : Unpredictable}
    (hleaf : mappedLeaf s i = some l) (hpass : passesStep3 s i = true) (hchecked : s.checked l = .unpredictable why) :
    exec i s = .refused (.unpredictable why) := by
  rw [exec_of_mapped hleaf hpass, State.useLeaf, hchecked]
  rfl

/-- Settles O30. -/
theorem clearAccessFlagFaultsFirst : Obligations.ClearAccessFlagFaultsFirst := by
  intro i s l hleaf hpass hafe hap
  exact exec_of_checked_responds hleaf hpass (checked_accessFlag (accessFlagClear_eq_true_iff.mpr ⟨hafe, hap⟩))

/-- Settles O31. -/
theorem noAccessDomainFaults : Obligations.NoAccessDomainFaults := by
  intro i s l hleaf hpass hflag hdom
  exact exec_of_checked_responds hleaf hpass (checked_noAccess (accessFlagClear_eq_false_iff.mpr hflag) hdom)

/-- Settles O32. -/
theorem deniedAccessInClientDomainFaults : Obligations.DeniedAccessInClientDomainFaults := by
  intro i s l hleaf hpass hflag hdom hperm
  exact exec_of_checked_responds hleaf hpass (checked_denied (accessFlagClear_eq_false_iff.mpr hflag) hdom hperm)

/-- Where the checks let the access through, every mapping descriptor answers `Ok` from its leaf (R49 step 6, R108). -/
theorem exec_of_accessPermitted {i : Instr} {s : State} {l : Leaf} (hleaf : mappedLeaf s i = some l)
    (hpass : passesStep3 s i = true) (hperm : accessPermitted s l.attrs) :
    exec i s =
      .next { s.keep l with result := some (.ok l.pa (if s.secure then l.ns else true) l.attrs), walk := .idle } :=
  exec_of_checked_responds hleaf hpass (checked_permitted hperm)

/-- Settles O33: in a Manager domain the permission check is not made. -/
theorem managerDomainIsNotChecked : Obligations.ManagerDomainIsNotChecked := by
  intro i s l hleaf hpass hflag hdom
  exact exec_of_accessPermitted hleaf hpass ⟨accessFlagClear_eq_false_iff.mpr hflag, .inl hdom⟩

/-- Settles O34. -/
theorem reservedValuesAreRefused : Obligations.ReservedValuesAreRefused := by
  intro i s l hleaf hpass
  constructor
  · intro hflag hdom
    exact exec_of_checked_unpredictable hleaf hpass (checked_reservedDomain (accessFlagClear_eq_false_iff.mpr hflag) hdom)
  · intro hafe hdom hap
    have hflag : accessFlagClear s.regs l.attrs = false := accessFlagClear_eq_false_iff.mpr (by simp [hafe])
    have hperm : perms (sctlrAfe s.regs) l.attrs.ap (privileged s.req.pl) = none := by rw [hafe, hap]; rfl
    exact exec_of_checked_unpredictable hleaf hpass
      (checked_reservedAp hflag hdom (checkPermission_reserved s.req.kind hperm))

/-! ### The address of an `Ok` -/

/-- The address of a block and the low bits that pass through it (R43), where they fit the 40-bit space. -/
theorem blockAddr_toNat {n m : Nat} (base : BitVec n) (va : Word) (h : n + m ≤ 40) :
    ((base ++ fieldAt va 0 m).setWidth 40).toNat = base.toNat * 2 ^ m + va.toNat % 2 ^ m := by
  rw [BitVec.toNat_setWidth_of_le h, append_toNat, fieldAt_toNat, Nat.pow_zero, Nat.div_one]

/-- R103: the PXN bit of a leaf. -/
theorem leafPxn_eq_ite (cfg : Config) (bit : Bool) : leafPxn cfg bit = if cfg.pxnSupported then bit else false := by
  rw [leafPxn]
  cases cfg.pxnSupported <;> rfl

/-- Settles O26. -/
theorem sectionAnswersOk : Obligations.SectionAnswersOk := by
  intro d s attrs hperm
  have hattrs : (leafOfSection s.cfg d s.req.va).attrs = attrs := by simp [leafOfSection, leafPxn_eq_ite, attrs]
  refine ⟨(leafOfSection s.cfg d s.req.va).pa, blockAddr_toNat d.base s.req.va (by decide), ?_⟩
  rw [← hattrs] at hperm ⊢
  exact exec_of_accessPermitted (i := .l1Section d) rfl rfl hperm

/-- Settles O27. -/
theorem supersectionAnswersOk : Obligations.SupersectionAnswersOk := by
  intro d s attrs hperm hpass
  have hattrs : (leafOfSupersection s.cfg d s.req.va).attrs = attrs := by
    simp [leafOfSupersection, leafPxn_eq_ite, attrs]
  have hpa := blockAddr_toNat (m := 24) d.base s.req.va (by decide)
  rw [BitVec.setWidth_eq] at hpa
  refine ⟨(leafOfSupersection s.cfg d s.req.va).pa, hpa, ?_⟩
  rw [← hattrs] at hperm ⊢
  exact exec_of_accessPermitted (i := .l1Supersection d) rfl hpass hperm

/-- Settles O28. -/
theorem largePageAnswersOk : Obligations.LargePageAnswersOk := by
  intro d s attrs hperm hpass
  have hattrs : (leafOfLargePage s.cfg s.parent d s.req.va).attrs = attrs := by
    simp [leafOfLargePage, leafPxn_eq_ite, attrs]
  refine ⟨(leafOfLargePage s.cfg s.parent d s.req.va).pa, blockAddr_toNat d.base s.req.va (by decide), ?_⟩
  rw [← hattrs] at hperm ⊢
  exact exec_of_accessPermitted (i := .l2LargePage d) rfl hpass hperm

/-- Settles O29. -/
theorem smallPageAnswersOk : Obligations.SmallPageAnswersOk := by
  intro d s attrs hperm hpass
  have hattrs : (leafOfSmallPage s.cfg s.parent d s.req.va).attrs = attrs := by
    simp [leafOfSmallPage, leafPxn_eq_ite, attrs]
  refine ⟨(leafOfSmallPage s.cfg s.parent d s.req.va).pa, blockAddr_toNat d.base s.req.va (by decide), ?_⟩
  rw [← hattrs] at hperm ⊢
  exact exec_of_accessPermitted (i := .l2SmallPage d) rfl hpass hperm

/-- Settles O22: the PXN bit of a leaf goes through `leafPxn` (R66, R103). -/
theorem noPxnInAnyLeafWithoutSupport : Obligations.NoPxnInAnyLeafWithoutSupport := by
  intro s i l hpxn hleaf
  have hbit : ∀ bit, leafPxn s.cfg bit = false := fun bit => by simp [leafPxn, hpxn]
  cases i with
  | l1Fault ign | l1PageTable d | l2Fault ign => cases hleaf
  | l1Section d | l1Supersection d | l2LargePage d | l2SmallPage d => obtain rfl := Option.some.inj hleaf; exact hbit _

/-- Settles O23. -/
theorem l1FaultAnswersTranslationFault : Obligations.L1FaultAnswersTranslationFault :=
  exec_l1Fault

/-- Settles O24. -/
theorem l2FaultAnswersTranslationFault : Obligations.L2FaultAnswersTranslationFault :=
  exec_l2Fault

/-! ### The refusals of step 3 -/

/-- The should-be-zero bits of a Page table descriptor matter unless the parameter ignores them (R66, R73). -/
theorem pageTableSbzBad_eq_true_iff {cfg : Config} {p : PageTableDesc} :
    pageTableSbzBad cfg p = true ↔
      cfg.sbzIgnored = false ∧ (p.sbz = true ∨ (cfg.pxnSupported = false ∧ p.pxn = true)) := by
  simp [pageTableSbzBad]

theorem largePageSbzBad_eq_true_iff {cfg : Config} {d : LargePageDesc} :
    largePageSbzBad cfg d = true ↔ cfg.sbzIgnored = false ∧ d.sbz ≠ 0 := by
  simp [largePageSbzBad]

theorem exec_largePage_sbz {s : State} {d : LargePageDesc}
    (h : pageTableSbzBad s.cfg s.parent = true ∨ largePageSbzBad s.cfg d = true) :
    exec (.l2LargePage d) s = .refused (.unpredictable .sbzNotZero) :=
  exec_of_yields (r := .stop (.unpredictable .sbzNotZero)) (by simp [descriptorYields, h])

theorem exec_smallPage_sbz {s : State} {d : SmallPageDesc} (h : pageTableSbzBad s.cfg s.parent = true) :
    exec (.l2SmallPage d) s = .refused (.unpredictable .sbzNotZero) :=
  exec_of_yields (r := .stop (.unpredictable .sbzNotZero)) (by simp [descriptorYields, h])

/-- Steps 4 to 6 never refuse a should-be-zero bit. -/
theorem useLeaf_ne_sbz (s : State) (l : Leaf) : s.useLeaf l ≠ .refused (.unpredictable .sbzNotZero) := by
  intro h
  rw [State.useLeaf] at h
  cases hc : s.checked l with
  | responds r => rw [hc] at h; cases h
  | unpredictable why =>
    rw [hc] at h
    cases h
    rcases checked_unpredictable hc with h | h <;> cases h

/-- Settles O35. -/
theorem shouldBeZeroBitsAreRefused : Obligations.ShouldBeZeroBitsAreRefused := by
  intro s
  constructor
  · intro hnot
    constructor
    · intro hparent
      have hbad : pageTableSbzBad s.cfg s.parent = true := pageTableSbzBad_eq_true_iff.mpr ⟨hnot, hparent⟩
      exact ⟨fun d => exec_largePage_sbz (.inl hbad), fun d => exec_smallPage_sbz hbad⟩
    · intro d hd
      exact exec_largePage_sbz (.inr (largePageSbzBad_eq_true_iff.mpr ⟨hnot, hd⟩))
  · intro hignored
    have hparent : pageTableSbzBad s.cfg s.parent = false := by simp [pageTableSbzBad, hignored]
    have hpage : ∀ d, largePageSbzBad s.cfg d = false := fun d => by simp [largePageSbzBad, hignored]
    constructor
    · intro d
      have hyields : exec (.l2LargePage d) s = s.finish _ := exec_of_yields rfl
      rw [hyields, hparent, hpage]
      split
      · next h => cases h
      · split
        · nofun
        · exact useLeaf_ne_sbz s _
    · intro d
      have hyields : exec (.l2SmallPage d) s = s.finish _ := exec_of_yields rfl
      rw [hyields, hparent]
      exact useLeaf_ne_sbz s _

/-- The `k`-th slot of the aligned group of sixteen words (R57). -/
theorem groupSlot_eq (a : Word) {k : Nat} (hk : k < 16) :
    clearBelow a 6 ||| BitVec.ofNat 32 (4 * k) = clearBelow a 6 + BitVec.ofNat 32 (4 * k) := by
  have hlow : (BitVec.ofNat 32 (4 * k)).toNat = 4 * k := by rw [BitVec.toNat_ofNat]; omega
  apply BitVec.eq_of_toNat_eq
  have ha := a.isLt
  rw [BitVec.toNat_add, clearBelow, shiftRight_shiftLeft_or_toNat (k := 6) _ _ (by omega), shiftRight_shiftLeft_toNat, hlow]
  omega

/-- R57: where it is checked, each of the sixteen slots reads as the descriptor. -/
theorem repetitionBad_eq_false_iff {s : State} {a w : Word} :
    s.repetitionBad a w = false ↔
      (s.cfg.wf1Checked = true → ∀ k < 16, s.walkRead (clearBelow a 6 + BitVec.ofNat 32 (4 * k)) = some w) := by
  have hslots : (groupSlots a).all (fun x => s.walkRead x == some w) = true ↔
      ∀ k < 16, s.walkRead (clearBelow a 6 + BitVec.ofNat 32 (4 * k)) = some w := by
    simp only [groupSlots, List.all_map, List.all_eq_true, List.mem_range, Function.comp_apply, beq_iff_eq]
    exact forall₂_congr fun k hk => by rw [groupSlot_eq a hk]
  rw [State.repetitionBad, Bool.and_eq_false_imp, Bool.not_eq_false', hslots]

theorem repetitionBad_of_slot {s : State} {a w : Word} {k : Nat} (hchecked : s.cfg.wf1Checked = true) (hk : k < 16)
    (h : s.walkRead (clearBelow a 6 + BitVec.ofNat 32 (4 * k)) ≠ some w) : s.repetitionBad a w = true := by
  rw [← Bool.not_eq_false, repetitionBad_eq_false_iff]
  exact fun hall => h (hall hchecked k hk)

/-- Settles O36. -/
theorem unrepeatedDescriptorIsRefused : Obligations.UnrepeatedDescriptorIsRefused := by
  intro s hchecked
  constructor
  · intro d k hk hslot
    have hbad := repetitionBad_of_slot hchecked hk hslot
    exact exec_of_yields (r := .stop (.unpredictable .repetition)) (by simp [descriptorYields, hbad])
  · intro d k hk hparent hpage hslot
    have hbad := repetitionBad_of_slot hchecked hk hslot
    exact exec_of_yields (r := .stop (.unpredictable .repetition)) (by simp [descriptorYields, hparent, hpage, hbad])

end Sys2Proof.Machine

/-! PROOFS. One step of the machine: what it answers, and what it leaves unchanged (10_state.md, 20_memory.md sections 3 and 4,
60_exceptions.md, 70_reset_and_hazards.md section 4; R10, R20, R49, R56, R175, R203). -/

namespace Sys2Proof.Machine

/-! ### The equations of a step -/

theorem step_idle {s : State} (h : s.walk = .idle) : step s = .next s := by
  rw [step, h]

theorem step_second {s : State} (h : s.walk = .second) : step s = runDescriptor .second s := by
  rw [step, h]

theorem step_first_walks {s : State} (h : s.walk = .first) (hpick : s.tlbPick = none) :
    step s = runDescriptor .first s.countChoice := by
  rw [step, h]
  simp only [hpick]

theorem step_first_kept {s : State} {e : TlbEntry} (h : s.walk = .first) (hpick : s.tlbPick = some e) :
    step s = s.countChoice.conclude (s.checked (e.leafFor s.req.va)) := by
  rw [step, h]
  simp only [hpick, State.useKept, State.countChoice_checked, State.countChoice_req]

theorem runDescriptor_of_noData {lvl : Level} {s : State} (h : s.fetchWord = none) :
    runDescriptor lvl s = .next (s.answer (.fault .externalAbortOnWalk lvl none)) := by
  rw [runDescriptor, h]
  rfl

theorem runDescriptor_of_decode {lvl : Level} {s : State} {w : Word} {i : Instr} (h : s.fetchWord = some w)
    (hdecode : decodeWord s.cfg lvl w = .ok i) : runDescriptor lvl s = exec i s := by
  rw [runDescriptor, h]
  simp only [hdecode]

theorem runDescriptor_of_reserved {lvl : Level} {s : State} {w : Word} {e : DecodeError} (h : s.fetchWord = some w)
    (hdecode : decodeWord s.cfg lvl w = .error e) : runDescriptor lvl s = s.reservedType := by
  rw [runDescriptor, h]
  simp only [hdecode]

/-- Settles O37. -/
theorem stepRunsTheDecodedDescriptor : Obligations.StepRunsTheDecodedDescriptor := by
  intro s w i hread
  refine ⟨fun hwalk hpick hdecode => ?_, fun hwalk hdecode => ?_, fun hstatic => ?_⟩
  · rw [step_first_walks hwalk hpick]
    exact runDescriptor_of_decode ((State.countChoice_fetchWord s).trans hread) (by rwa [State.countChoice_cfg])
  · rw [step_second hwalk]
    exact runDescriptor_of_decode hread hdecode
  · exact ⟨tlbPick_of_static hstatic, State.countChoice_of_static s hstatic⟩

/-- Settles O38. -/
theorem stepWaitsForARequest : Obligations.StepWaitsForARequest :=
  ⟨fun _ h => step_idle h, step_idle rfl⟩

/-- Settles O39. -/
theorem failedWalkReadIsAnExternalAbort : Obligations.FailedWalkReadIsAnExternalAbort := by
  intro s hread
  constructor
  · intro hwalk hpick
    rw [step_first_walks hwalk hpick]
    exact runDescriptor_of_noData ((State.countChoice_fetchWord s).trans hread)
  · intro hwalk
    rw [step_second hwalk]
    exact runDescriptor_of_noData hread

/-- Settles O40. -/
theorem reservedFirstLevelType : Obligations.ReservedFirstLevelType := by
  intro s w hwalk hpick hread hpxn htype
  obtain ⟨h1, h0⟩ := bits_of_typeBits true true htype
  have hstep : step s = s.countChoice.reservedType := by
    rw [step_first_walks hwalk hpick]
    exact runDescriptor_of_reserved ((State.countChoice_fetchWord s).trans hread)
      (decodeFirst_reserved h1 h0 (by rwa [State.countChoice_cfg]))
  constructor
  · intro hparam
    simp [hstep, State.reservedType, hparam]
  · intro hparam
    simp [hstep, State.reservedType, hparam, State.answer]

/-! ### A kept record -/

/-- A record covers the addresses whose bits above the block are those of its base. -/
theorem TlbEntry.covers_iff {e : TlbEntry} {va : Word} :
    e.covers va = true ↔ va >>> blockBits e.leaf.attrs.size <<< blockBits e.leaf.attrs.size = e.vaBase := by
  rw [TlbEntry.covers, beq_iff_eq, clearBelow]
  exact eq_comm

theorem step_kept_responds {s : State} {e : TlbEntry} {r : Response} (hwalk : s.walk = .first) (hpick : s.tlbPick = some e)
    (hchecked : s.checked (e.leafFor s.req.va) = .responds r) :
    step s = .next { s.countChoice with result := some r, walk := .idle } := by
  rw [step_first_kept hwalk hpick, hchecked]
  rfl

theorem step_kept_unpredictable {s : State} {e : TlbEntry} {why : Unpredictable} (hwalk : s.walk = .first)
    (hpick : s.tlbPick = some e) (hchecked : s.checked (e.leafFor s.req.va) = .unpredictable why) :
    step s = .refused (.unpredictable why) := by
  rw [step_first_kept hwalk hpick, hchecked]
  rfl

/-- Settles O41, by the rows of steps 4 to 6. -/
theorem keptTranslationIsCheckedAfresh : Obligations.KeptTranslationIsCheckedAfresh := by
  intro s e hwalk hpick
  obtain ⟨hmodel, hmem, hcovers⟩ := tlbPick_some hpick
  refine ⟨hmodel, hmem, TlbEntry.covers_iff.mp hcovers, ?permitted, ?noAccess, ?accessFlag, ?denied, ?reservedDomain,
    ?reservedAp⟩
  case permitted =>
    intro hperm
    exact step_kept_responds hwalk hpick (checked_permitted (l := e.leafFor s.req.va) hperm)
  case noAccess =>
    intro hflag hdom
    exact step_kept_responds hwalk hpick (checked_noAccess (l := e.leafFor s.req.va) hflag hdom)
  case accessFlag =>
    intro hafe hap
    exact step_kept_responds hwalk hpick
      (checked_accessFlag (l := e.leafFor s.req.va) (accessFlagClear_eq_true_iff.mpr ⟨hafe, hap⟩))
  case denied =>
    intro hflag hdom hperm
    exact step_kept_responds hwalk hpick (checked_denied (l := e.leafFor s.req.va) hflag hdom hperm)
  case reservedDomain =>
    intro hflag hdom
    exact step_kept_unpredictable hwalk hpick (checked_reservedDomain (l := e.leafFor s.req.va) hflag hdom)
  case reservedAp =>
    intro hflag hdom hperm
    exact step_kept_unpredictable hwalk hpick (checked_reservedAp (l := e.leafFor s.req.va) hflag hdom hperm)

/-! ### The low bits of a leaf's address -/

/-- The leaf with the low `k` bits of its address taken from `va` (R43). -/
def Leaf.withLowBits (l : Leaf) (k : Nat) (va : Word) : Leaf :=
  { l with pa := (l.pa >>> k) <<< k ||| (va.setWidth k).setWidth 40 }

theorem TlbEntry.leafFor_eq (e : TlbEntry) (va : Word) :
    e.leafFor va = e.leaf.withLowBits (blockBits e.leaf.attrs.size) va := rfl

/-- Two addresses that agree from bit `k` up give the same block address but for the low `k` bits. -/
theorem blockAddr_withLowBits {n m k : Nat} (base : BitVec n) (va va' : Word) (hfit : n + m ≤ 40) (hk : k ≤ m)
    (h : va' >>> k = va >>> k) :
    (base ++ fieldAt va' 0 m).setWidth 40 =
      ((base ++ fieldAt va 0 m).setWidth 40 >>> k) <<< k ||| (va'.setWidth k).setWidth 40 := by
  have hhigh := toNat_div_eq h
  have hlow : ((va'.setWidth k).setWidth 40).toNat = va'.toNat % 2 ^ k := by
    rw [BitVec.toNat_setWidth_of_le (by omega), BitVec.toNat_setWidth]
  have hpow : 2 ^ m = 2 ^ k * 2 ^ (m - k) := by rw [← Nat.pow_add]; congr 1; omega
  have hquot : ∀ x : Nat, (base.toNat * 2 ^ m + x % 2 ^ m) / 2 ^ k =
      base.toNat * 2 ^ (m - k) + x / 2 ^ k % 2 ^ (m - k) := by
    intro x
    rw [← Nat.mod_mul_right_div_self, ← hpow]
    conv_lhs => rw [hpow, Nat.mul_left_comm, ← hpow]
    exact Nat.mul_add_div (Nat.two_pow_pos k) _ _
  have hrem : (base.toNat * 2 ^ m + va'.toNat % 2 ^ m) % 2 ^ k = va'.toNat % 2 ^ k := by
    conv_lhs => rw [hpow, Nat.mul_left_comm, Nat.mul_add_mod, Nat.mod_mul_right_mod]
  apply BitVec.eq_of_toNat_eq
  rw [shiftRight_shiftLeft_or_toNat _ _ (hlow ▸ Nat.mod_lt _ (Nat.two_pow_pos k)), hlow, blockAddr_toNat base va hfit,
    blockAddr_toNat base va' hfit, hquot va.toNat, ← hhigh, ← hquot va'.toNat]
  conv_rhs => rw [← hrem, Nat.div_add_mod']

/-- A mapping descriptor gives the same leaf at another address of the block, but for the low bits. -/
theorem mappedLeaf_atVa {s : State} {i : Instr} {l : Leaf} (hleaf : mappedLeaf s i = some l) {k : Nat}
    (hk : k ≤ blockBits l.attrs.size) {va : Word} (h : va >>> k = s.req.va >>> k) :
    mappedLeaf (s.atVa va) i = some (l.withLowBits k va) := by
  cases i with
  | l1Fault ign | l1PageTable d | l2Fault ign => cases hleaf
  | l1Section d =>
    obtain rfl := Option.some.inj hleaf
    have hpa := blockAddr_withLowBits (m := 20) d.base s.req.va va (by decide) hk h
    simp [mappedLeaf, leafOfSection, Leaf.withLowBits, hpa]
  | l1Supersection d =>
    obtain rfl := Option.some.inj hleaf
    have hpa := blockAddr_withLowBits (m := 24) d.base s.req.va va (by decide) hk h
    rw [BitVec.setWidth_eq, BitVec.setWidth_eq] at hpa
    simp [mappedLeaf, leafOfSupersection, Leaf.withLowBits, hpa]
  | l2LargePage d =>
    obtain rfl := Option.some.inj hleaf
    have hpa := blockAddr_withLowBits (m := 16) d.base s.req.va va (by decide) hk h
    simp [mappedLeaf, leafOfLargePage, Leaf.withLowBits, hpa]
  | l2SmallPage d =>
    obtain rfl := Option.some.inj hleaf
    have hpa := blockAddr_withLowBits (m := 12) d.base s.req.va va (by decide) hk h
    simp [mappedLeaf, leafOfSmallPage, Leaf.withLowBits, hpa]

theorem clearLowBits_twice {n : Nat} (x : BitVec n) (k : Nat) : ((x >>> k) <<< k) >>> k <<< k = (x >>> k) <<< k := by
  apply BitVec.eq_of_toNat_eq
  rw [shiftRight_shiftLeft_toNat, shiftRight_shiftLeft_toNat, Nat.mul_div_cancel _ (Nat.two_pow_pos k)]

/-- The record made for one address gives, at another, the leaf with the low bits of that address. -/
theorem tlbEntryOf_leafFor (va va' : Word) (l : Leaf) :
    (tlbEntryOf va l).leafFor va' = l.withLowBits (blockBits l.attrs.size) va' := by
  simp only [TlbEntry.leafFor_eq, tlbEntryOf, Leaf.withLowBits, clearLowBits_twice]

/-- Settles O42: the record is the one that `keep` makes, and at the address it was made for it gives the leaf back. -/
theorem mappingLeavesAKeptRecord : Obligations.MappingLeavesAKeptRecord := by
  intro i s t l hmodel hleaf hpass hexec
  rw [exec_of_mapped hleaf hpass] at hexec
  obtain ⟨r, -, rfl⟩ := useLeaf_next hexec
  have hsame : some l = some (l.withLowBits _ s.req.va) :=
    hleaf.symm.trans (mappedLeaf_atVa hleaf le_rfl (va := s.req.va) rfl)
  refine ⟨tlbEntryOf s.req.va l, State.tlbEntryOf_mem_keep s l hmodel, tlbEntryOf_covers _ l, ?_, ?_, ?_⟩
  · rw [tlbEntryOf_leafFor]
    exact (Option.some.inj hsame).symm
  · exact fun e he => (State.mem_keep_tlb s l e he).symm
  · exact fun e he => State.subset_keep_tlb s l e he

/-! ### What a step can do, and its frame -/

/-- What no step changes: the parameters, the registers, the memory and the request; and what is kept is not lost (R10, R181,
assumption log 12). -/
structure Frame (s t : State) : Prop where
  cfg : t.cfg = s.cfg
  regsS : t.regsS = s.regsS
  regsNS : t.regsNS = s.regsNS
  memS : t.memS = s.memS
  memNS : t.memNS = s.memNS
  req : t.req = s.req
  static_tables : s.cfg.tlbModel = .staticTables → t.tlb = s.tlb ∧ t.freeCount = s.freeCount
  tlb_subset : ∀ e ∈ s.tlb, e ∈ t.tlb

theorem Frame.refl (s : State) : Frame s s := ⟨rfl, rfl, rfl, rfl, rfl, rfl, fun _ => ⟨rfl, rfl⟩, fun _ h => h⟩

theorem Frame.trans {s t u : State} (hst : Frame s t) (htu : Frame t u) : Frame s u where
  cfg := htu.cfg.trans hst.cfg
  regsS := htu.regsS.trans hst.regsS
  regsNS := htu.regsNS.trans hst.regsNS
  memS := htu.memS.trans hst.memS
  memNS := htu.memNS.trans hst.memNS
  req := htu.req.trans hst.req
  static_tables h := by
    obtain ⟨htlb, hcount⟩ := hst.static_tables h
    obtain ⟨htlb', hcount'⟩ := htu.static_tables (hst.cfg ▸ h)
    exact ⟨htlb'.trans htlb, hcount'.trans hcount⟩
  tlb_subset e he := htu.tlb_subset e (hst.tlb_subset e he)

theorem Frame.answer (s : State) (r : Response) : Frame s (s.answer r) :=
  ⟨rfl, rfl, rfl, rfl, rfl, rfl, fun _ => ⟨rfl, rfl⟩, fun _ h => h⟩

theorem Frame.goDown (s : State) (p : PageTableDesc) : Frame s { s with parent := p, walk := .second } :=
  ⟨rfl, rfl, rfl, rfl, rfl, rfl, fun _ => ⟨rfl, rfl⟩, fun _ h => h⟩

theorem Frame.keep (s : State) (l : Leaf) : Frame s (s.keep l) where
  cfg := State.keep_cfg s l
  regsS := State.keep_regsS s l
  regsNS := State.keep_regsNS s l
  memS := State.keep_memS s l
  memNS := State.keep_memNS s l
  req := State.keep_req s l
  static_tables h := by rw [State.keep_of_static s l h]; exact ⟨rfl, rfl⟩
  tlb_subset := State.subset_keep_tlb s l

theorem Frame.countChoice (s : State) : Frame s s.countChoice where
  cfg := State.countChoice_cfg s
  regsS := State.countChoice_regsS s
  regsNS := State.countChoice_regsNS s
  memS := State.countChoice_memS s
  memNS := State.countChoice_memNS s
  req := State.countChoice_req s
  static_tables h := by rw [State.countChoice_of_static s h]; exact ⟨rfl, rfl⟩
  tlb_subset e he := by rwa [State.countChoice_tlb]

theorem Frame.secure {s t : State} (h : Frame s t) : t.secure = s.secure := by
  rw [State.secure, State.secure, h.cfg, h.req]

theorem Frame.regs {s t : State} (h : Frame s t) : t.regs = s.regs := by
  rw [State.regs, State.regs, h.secure, h.regsS, h.regsNS]

theorem Frame.walkMem {s t : State} (h : Frame s t) : t.walkMem = s.walkMem := by
  rw [State.walkMem, State.walkMem, h.secure, h.memS, h.memNS]

/-- All that running a descriptor can do when it answers a next state: go down below a Page table descriptor, answer a fault
of the walk, or keep a leaf and answer what steps 4 to 6 give for it. -/
theorem runDescriptor_effect {lvl : Level} {s t : State} (h : runDescriptor lvl s = .next t) :
    (lvl = .first ∧ ∃ w d, s.fetchWord = some w ∧ decodeWord s.cfg .first w = .ok (.l1PageTable d) ∧
      t = { s with parent := d, walk := .second }) ∨
    (∃ kind level domain, Response.Wf s.cfg (.fault kind level domain) ∧ t = s.answer (.fault kind level domain)) ∨
    (∃ w i l r, s.fetchWord = some w ∧ decodeWord s.cfg lvl w = .ok i ∧ mappedLeaf s i = some l ∧ passesStep3 s i = true ∧
      s.checked l = .responds r ∧ t = (s.keep l).answer r) := by
  obtain ⟨-, rfl⟩ | ⟨w, e, hw, hd, hres⟩ | ⟨w, i, hw, hd, hexec⟩ := runDescriptor_next h
  · exact .inr (.inl ⟨.externalAbortOnWalk, lvl, none, rfl, rfl⟩)
  · obtain ⟨-, rfl⟩ := reservedType_next hres
    exact .inr (.inl ⟨.translation, .first, none, rfl, rfl⟩)
  · obtain ⟨ign, rfl, rfl⟩ | ⟨d, rfl, rfl⟩ | ⟨ign, rfl, rfl⟩ | ⟨l, r, hleaf, hpass, hchecked, rfl⟩ := exec_next hexec
    · exact .inr (.inl ⟨.translation, .first, none, rfl, rfl⟩)
    · have hlvl : lvl = .first := by
        cases lvl with
        | first => rfl
        | second =>
          have hlevel := decodeSecond_level w
          rw [Except.ok.inj hd] at hlevel
          cases hlevel
      subst hlvl
      exact .inl ⟨rfl, w, d, hw, hd, rfl⟩
    · exact .inr (.inl ⟨.translation, .second, some s.parent.domain, rfl, rfl⟩)
    · exact .inr (.inr ⟨w, i, l, r, hw, hd, hleaf, hpass, hchecked, rfl⟩)

theorem runDescriptor_frame {lvl : Level} {s t : State} (h : runDescriptor lvl s = .next t) : Frame s t := by
  obtain ⟨-, _, d, -, -, rfl⟩ | ⟨_, _, _, -, rfl⟩ | ⟨_, _, l, r, -, -, -, -, -, rfl⟩ := runDescriptor_effect h
  · exact Frame.goDown s d
  · exact Frame.answer s _
  · exact (Frame.keep s l).trans (Frame.answer _ r)

theorem step_frame {s t : State} (h : step s = .next t) : Frame s t := by
  obtain ⟨-, rfl⟩ | ⟨-, hrun⟩ | ⟨-, e, -, hkept⟩ | ⟨-, -, hrun⟩ := step_next h
  · exact Frame.refl t
  · exact runDescriptor_frame hrun
  · obtain ⟨r, -, rfl⟩ := useKept_next hkept
    exact (Frame.countChoice s).trans (Frame.answer _ r)
  · exact (Frame.countChoice s).trans (runDescriptor_frame hrun)

/-- Settles O44. -/
theorem stepWritesNoArchitecturalState : Obligations.StepWritesNoArchitecturalState := by
  intro s t h
  have hf := step_frame h
  exact ⟨hf.cfg, hf.regsS, hf.regsNS, hf.memS, hf.memNS, hf.req, hf.static_tables, hf.tlb_subset⟩

/-! ### When a translation ends -/

/-- Running a descriptor ends the translation with an answer, unless it goes down below a Page table descriptor. -/
theorem runDescriptor_ends_or_goes_down {lvl : Level} {s t : State} (h : runDescriptor lvl s = .next t) :
    (lvl = .first ∧ t.walk = .second ∧
      ∃ w d, s.fetchWord = some w ∧ decodeWord s.cfg .first w = .ok (.l1PageTable d)) ∨
    (t.walk = .idle ∧ t.result.isSome = true) := by
  obtain ⟨rfl, w, d, hw, hd, rfl⟩ | ⟨_, _, _, -, rfl⟩ | ⟨_, _, _, _, -, -, -, -, -, rfl⟩ := runDescriptor_effect h
  · exact .inl ⟨rfl, rfl, w, d, hw, hd⟩
  · exact .inr ⟨rfl, rfl⟩
  · exact .inr ⟨rfl, rfl⟩

theorem step_kept_ends {s t : State} {e : TlbEntry} (hwalk : s.walk = .first) (hpick : s.tlbPick = some e)
    (h : step s = .next t) : t.walk = .idle ∧ t.result.isSome = true := by
  rw [step_first_kept hwalk hpick] at h
  obtain ⟨r, -, rfl⟩ := conclude_next h
  exact ⟨rfl, rfl⟩

/-- Settles O45. -/
theorem oneOrTwoWalkReads : Obligations.OneOrTwoWalkReads := by
  intro s t h
  refine ⟨?goesDown, ?firstStep, fun e hwalk hpick => step_kept_ends hwalk hpick h, ?secondStep⟩
  case goesDown =>
    intro hwalk hpick
    rw [step_first_walks hwalk hpick] at h
    constructor
    · intro hsecond
      obtain ⟨-, -, w, d, hw, hd⟩ | ⟨hidle, -⟩ := runDescriptor_ends_or_goes_down h
      · exact ⟨w, d, by simpa [State.fetchWord] using hw, by simpa using hd⟩
      · cases hsecond.symm.trans hidle
    · rintro ⟨w, d, hw, hd⟩
      rw [runDescriptor_of_decode (by simpa [State.fetchWord] using hw) (by simpa using hd)] at h
      cases h
      rfl
  case firstStep =>
    intro hwalk
    cases hpick : s.tlbPick with
    | some e => exact .inr (step_kept_ends hwalk hpick h)
    | none =>
      rw [step_first_walks hwalk hpick] at h
      exact (runDescriptor_ends_or_goes_down h).imp (fun hdown => hdown.2.1) id
  case secondStep =>
    intro hwalk
    rw [step_second hwalk] at h
    obtain ⟨hlvl, -⟩ | hends := runDescriptor_ends_or_goes_down h
    · cases hlvl
    · exact hends

/-! ### An `Ok` -/

/-- An `Ok` of steps 4 to 6 repeats the leaf, and the checks let the access through. -/
theorem checked_ok {s : State} {l : Leaf} {pa : PhysAddr} {ns : Bool} {a : Attrs}
    (h : s.checked l = .responds (.ok pa ns a)) :
    pa = l.pa ∧ ns = outNS l.ns s.secure ∧ a = l.attrs ∧ accessPermitted s l.attrs := by
  rw [State.checked] at h
  obtain ⟨-, e⟩ | ⟨-, -, e⟩ | ⟨-, -, e⟩ | ⟨hflag, hdom, e⟩ | ⟨-, -, -, e⟩ | ⟨-, -, -, e⟩ | ⟨hflag, hdom, hperm, e⟩ :=
    checkLeaf_cases s.regs s.req s.secure l <;> cases e.symm.trans h
  · exact ⟨rfl, rfl, rfl, hflag, .inl hdom⟩
  · exact ⟨rfl, rfl, rfl, hflag, .inr ⟨hdom, hperm⟩⟩

theorem runDescriptor_ok_permitted {lvl : Level} {s t : State} {pa : PhysAddr} {ns : Bool} {a : Attrs}
    (h : runDescriptor lvl s = .next t) (hidle : t.walk = .idle) (hok : t.result = some (.ok pa ns a)) :
    accessPermitted s a := by
  obtain ⟨-, _, _, -, -, rfl⟩ | ⟨_, _, _, -, rfl⟩ | ⟨_, _, l, r, -, -, -, -, hchecked, rfl⟩ := runDescriptor_effect h
  · cases hidle
  · cases hok
  · obtain rfl := Option.some.inj hok
    obtain ⟨-, -, rfl, hperm⟩ := checked_ok hchecked
    exact hperm

/-- Settles O53. -/
theorem okOnlyWhenPermitted : Obligations.OkOnlyWhenPermitted := by
  intro s t pa ns a hbusy h hidle hok
  obtain ⟨hwalk, -⟩ | ⟨-, hrun⟩ | ⟨hwalk, e, hpick, -⟩ | ⟨-, -, hrun⟩ := step_next h
  · exact absurd hwalk hbusy
  · exact runDescriptor_ok_permitted hrun hidle hok
  · rw [step_first_kept hwalk hpick] at h
    obtain ⟨r, hchecked, rfl⟩ := conclude_next h
    obtain rfl := Option.some.inj hok
    obtain ⟨-, -, rfl, hperm⟩ := checked_ok hchecked
    exact hperm
  · have hperm := runDescriptor_ok_permitted hrun hidle hok
    simpa [accessPermitted] using hperm

end Sys2Proof.Machine

/-! PROOFS. Software's stores and the table-walk read (20_memory.md section 2; R46, R47, R53). -/

namespace Sys2Proof.Machine

/-! ### Bytes read after bytes written -/

theorem next_address_toNat {a : PhysAddr} (h : a.toNat + 1 < 2 ^ 40) : (a + 1).toNat = a.toNat + 1 := by
  rw [BitVec.toNat_add]
  exact Nat.mod_eq_of_lt h

/-- A byte outside the bytes written. -/
theorem Memory.read_writeBytes_outside (bs : List Byte) (m : Memory) (a : PhysAddr) {c : Nat}
    (hfit : a.toNat + bs.length < 2 ^ 40) (hc : c < a.toNat ∨ a.toNat + bs.length ≤ c) :
    Memory.read (Memory.writeBytes m a bs) c = Memory.read m c := by
  induction bs generalizing m a with
  | nil => rfl
  | cons v rest ih =>
    rw [List.length_cons] at hfit hc
    have hnext : (a + 1).toNat = a.toNat + 1 := next_address_toNat (by omega)
    rw [Memory.writeBytes, ih _ _ (by omega) (by omega), Memory.read_write_other _ _ _ _ (by omega)]

/-- A byte among the bytes written. -/
theorem Memory.read_writeBytes_inside (bs : List Byte) (m : Memory) (a : PhysAddr) {k : Nat}
    (hfit : a.toNat + bs.length < 2 ^ 40) (hk : k < bs.length) :
    Memory.read (Memory.writeBytes m a bs) (a.toNat + k) = some bs[k] := by
  induction bs generalizing m a k with
  | nil => cases hk
  | cons v rest ih =>
    rw [List.length_cons] at hfit hk
    have hnext : (a + 1).toNat = a.toNat + 1 := next_address_toNat (by omega)
    rw [Memory.writeBytes]
    cases k with
    | zero =>
      rw [Memory.read_writeBytes_outside rest _ _ (by omega) (by omega)]
      exact Memory.read_write_same _ _ _
    | succ j =>
      have hj := ih (Memory.write m a.toNat v) (a + 1) (k := j) (by omega) (by omega)
      rw [hnext, Nat.add_right_comm] at hj
      exact hj

/-! ### The walk read after a store -/

@[simp] theorem State.storeWord_secure (s : State) (b : Bool) (a : PhysAddr) (w : Word) :
    (s.storeWord b a w).secure = s.secure := by
  simp [State.secure]

/-- A store in the map that the walk reads. -/
theorem State.storeWord_walkMem_same (s : State) (a : PhysAddr) (w : Word) :
    (s.storeWord s.secure a w).walkMem = Memory.writeBytes s.walkMem a (bytesOfWord s.cfg.walkBigEndian w) := by
  rw [State.walkMem, State.storeWord_secure, State.walkMem]
  cases s.secure <;> rfl

/-- A store in the other map. -/
theorem State.storeWord_walkMem_other (s : State) (a : PhysAddr) (w : Word) :
    (s.storeWord (!s.secure) a w).walkMem = s.walkMem := by
  rw [State.walkMem, State.storeWord_secure, State.walkMem]
  cases s.secure <;> rfl

/-- The walk read depends on the byte order and on four bytes of the map. -/
theorem walkRead_congr {s t : State} {a : Word} (hcfg : t.cfg = s.cfg)
    (hbytes : ∀ k < 4, t.walkMem.read (a.toNat + k) = s.walkMem.read (a.toNat + k)) : t.walkRead a = s.walkRead a := by
  rw [State.walkRead, State.walkRead, hcfg, hbytes 1 (by decide), hbytes 2 (by decide), hbytes 3 (by decide),
    show t.walkMem.read a.toNat = s.walkMem.read a.toNat from hbytes 0 (by decide)]

theorem walkRead_storeWord_same (s : State) (x w : Word) (hx : x.toNat % 4 = 0) :
    (s.storeWord s.secure (x.setWidth 40) w).walkRead x = some w := by
  obtain ⟨b0, b1, b2, b3, hbytes, hword⟩ := exists_bytesOfWord s.cfg.walkBigEndian w
  have hlt := x.isLt
  have haddr : (x.setWidth 40).toNat = x.toNat := BitVec.toNat_setWidth_of_le (by decide)
  have hread : ∀ (k : Nat) (hk : k < 4), (s.storeWord s.secure (x.setWidth 40) w).walkMem.read (x.toNat + k) =
      some ([b0, b1, b2, b3][k]) := by
    intro k hk
    have hinside := Memory.read_writeBytes_inside [b0, b1, b2, b3] s.walkMem (x.setWidth 40) (k := k)
      (by rw [haddr, List.length_cons]; simp only [List.length_cons, List.length_nil]; omega) hk
    rw [State.storeWord_walkMem_same, hbytes, ← hinside, haddr]
  have h0 := hread 0 (by decide)
  rw [Nat.add_zero] at h0
  rw [State.walkRead, h0, hread 1 (by decide), hread 2 (by decide), hread 3 (by decide), State.storeWord_cfg]
  exact congrArg some hword

/-- Settles O58. -/
theorem storedWordIsRead : Obligations.StoredWordIsRead :=
  walkRead_storeWord_same

/-- Settles O59: aligned words that differ have no byte in common. -/
theorem storeLeavesOtherWords : Obligations.StoreLeavesOtherWords := by
  intro s x y w
  constructor
  · intro hx hy hne
    have hne' : x.toNat ≠ y.toNat := fun h => hne (BitVec.eq_of_toNat_eq h)
    obtain ⟨b0, b1, b2, b3, hbytes, -⟩ := exists_bytesOfWord s.cfg.walkBigEndian w
    have hlt := x.isLt
    have haddr : (x.setWidth 40).toNat = x.toNat := BitVec.toNat_setWidth_of_le (by decide)
    refine walkRead_congr (State.storeWord_cfg ..) fun k hk => ?_
    rw [State.storeWord_walkMem_same, hbytes]
    refine Memory.read_writeBytes_outside _ _ _ ?_ ?_
    · simp only [haddr, List.length_cons, List.length_nil]
      omega
    · simp only [haddr, List.length_cons, List.length_nil]
      omega
  · exact walkRead_congr (State.storeWord_cfg ..) fun k _ => by rw [State.storeWord_walkMem_other]

/-! ### A word placed where the next step fetches -/

/-- The word that `decodeTableWord` reads, as a word (assumption log 5). -/
theorem decodeWord_of_decodeTableWord {nbits w : Nat} {i : Instr} (h : decodeTableWord nbits w = some i) :
    decodeWord Config.default .first (BitVec.ofNat 32 (w % 2 ^ nbits)) = .ok i := by
  rw [decodeTableWord, decode_bytesOfWord] at h
  cases hd : decodeWord Config.default .first (BitVec.ofNat 32 (w % 2 ^ nbits)) with
  | error e => rw [hd] at h; cases h
  | ok j => rw [hd] at h; exact congrArg Except.ok (Option.some.inj h)

/-- Settles O43: from reset the next step fetches at the aligned address that the word was stored at. -/
theorem placedWordIsRunFirst : Obligations.PlacedWordIsRunFirst := by
  intro nbits w i h
  have hstatic : (State.reset.withFetchWord nbits w).cfg.tlbModel = .staticTables := rfl
  have hfetch : (State.reset.withFetchWord nbits w).fetchWord = some (BitVec.ofNat 32 (w % 2 ^ nbits)) :=
    walkRead_storeWord_same State.reset.inProgress State.reset.inProgress.fetchAddr _ (by decide)
  rw [step_first_walks rfl (tlbPick_of_static hstatic), State.countChoice_of_static _ hstatic]
  exact runDescriptor_of_decode hfetch (decodeWord_of_decodeTableWord h)

end Sys2Proof.Machine

/-! PROOFS. The walk of `Translate`, which R49 writes over raw words, in terms of the decoder (20_memory.md section 3). -/

namespace Sys2Proof.Machine

/-! ### What one word yields -/

/-- How the reserved first-level type ends a translation (R66). -/
def reservedEnd (cfg : Config) : Translation :=
  match cfg.l1Type3NoPxn with
  | .refuse => .unpredictable .l1Type0b11WithoutPxn
  | .translationFault => .responds (.fault .translation .first none)

theorem reservedType_eq (s : State) : s.reservedType = s.conclude (reservedEnd s.cfg) := by
  rw [State.reservedType, reservedEnd]
  cases s.cfg.l1Type3NoPxn <;> rfl

/-- The raw reading of a Section word is the leaf of the decoded descriptor (R82). -/
theorem walkFirstLevelMapping_section {s : State} {d1 : Word} (h18 : bitAt d1 18 = false) :
    walkFirstLevelMapping s (l1DescAddr s.regs s.req.va) d1 = .leaf (leafOfSection s.cfg (sectionOfWord d1) s.req.va) := by
  rw [bitAt] at h18
  simp only [walkFirstLevelMapping, h18, leafOfSection, leafPxn_eq_ite]
  rfl

/-- The raw reading of a Supersection word is that of the decoded descriptor (R83, R57). -/
theorem walkFirstLevelMapping_supersection {s : State} {d1 : Word} (h1 : bitAt d1 1 = true) (h18 : bitAt d1 18 = true) :
    descriptorYields s (.l1Supersection (supersectionOfWord d1)) =
      some (walkFirstLevelMapping s (l1DescAddr s.regs s.req.va) d1) := by
  simp only [descriptorYields, encode_supersectionOfWord h1 h18]
  rw [bitAt] at h18
  simp only [walkFirstLevelMapping, h18, leafOfSupersection, leafPxn_eq_ite]
  rfl

/-- The raw reading of a second-level word is that of the decoded descriptor below the decoded parent (R90 to R93, R57, R73). -/
theorem walkSecondLevel_eq (s : State) (d1 d2 : Word) :
    descriptorYields { s with parent := pageTableOfWord d1 } (decodeSecond d2) =
      some (walkSecondLevel s d1 (l2DescAddr (pageTableOfWord d1) s.req.va) d2) := by
  obtain ⟨h1, h0, e⟩ | ⟨h1, h0, e⟩ | ⟨h1, e⟩ := decodeSecond_cases d2
  · rw [e]
    rw [bitAt] at h1 h0
    simp only [descriptorYields, walkSecondLevel, h1, h0]
    rfl
  · rw [e]
    simp only [descriptorYields, encode_largePageOfWord h1 h0]
    rw [bitAt] at h1 h0
    simp only [walkSecondLevel, h1, h0, leafOfLargePage, leafPxn_eq_ite]
    rfl
  · rw [e]
    rw [bitAt] at h1
    simp only [descriptorYields, walkSecondLevel, h1, leafOfSmallPage, leafPxn_eq_ite]
    rfl

/-! ### The walk by what the first read gives -/

theorem walkLeaf_noData {s : State} (h : s.walkRead (l1DescAddr s.regs s.req.va) = none) :
    walkLeaf s = .stop (.responds (.fault .externalAbortOnWalk .first none)) := by
  simp only [walkLeaf, h]

theorem walkLeaf_reserved {s : State} {d1 : Word} {e : DecodeError} (h : s.walkRead (l1DescAddr s.regs s.req.va) = some d1)
    (hdecode : decodeFirst s.cfg d1 = .error e) : walkLeaf s = .stop (reservedEnd s.cfg) := by
  obtain ⟨-, -, e'⟩ | ⟨-, -, e'⟩ | ⟨-, -, -, e'⟩ | ⟨-, -, -, e'⟩ | ⟨h1, h0, hpxn, e'⟩ := decodeFirst_cases s.cfg d1 <;>
    cases e'.symm.trans hdecode
  rw [bitAt] at h1 h0
  simp only [walkLeaf, h, h1, h0, hpxn, reservedEnd]
  cases s.cfg.l1Type3NoPxn <;> rfl

/-- A first-level descriptor that is no Page table descriptor ends the walk. -/
theorem walkLeaf_first {s : State} {d1 : Word} {i : Instr} {r : WalkResult}
    (h : s.walkRead (l1DescAddr s.regs s.req.va) = some d1) (hdecode : decodeFirst s.cfg d1 = .ok i)
    (hyields : descriptorYields s i = some r) : walkLeaf s = r := by
  have hmapping (h1 : bitAt d1 1 = true) (hpxn : bitAt d1 0 = false ∨ s.cfg.pxnSupported = true) :
      walkLeaf s = walkFirstLevelMapping s (l1DescAddr s.regs s.req.va) d1 := by
    rw [bitAt] at h1 hpxn
    rcases hpxn with h0 | hsupported
    · simp only [walkLeaf, h, h1, h0]
      rfl
    · simp only [walkLeaf, h, h1, hsupported, Bool.not_true, Bool.and_false]
      rfl
  obtain ⟨h1, h0, e⟩ | ⟨h1, h0, e⟩ | ⟨h1, hpxn, h18, e⟩ | ⟨h1, hpxn, h18, e⟩ | ⟨h1, h0, hpxn, e⟩ :=
    decodeFirst_cases s.cfg d1 <;> cases e.symm.trans hdecode
  · rw [bitAt] at h1 h0
    cases hyields
    simp only [walkLeaf, h, h1, h0]
    rfl
  · cases hyields
  · cases hyields
    rw [hmapping h1 hpxn, walkFirstLevelMapping_section h18]
  · rw [walkFirstLevelMapping_supersection h1 h18] at hyields
    rw [hmapping h1 hpxn, Option.some.inj hyields]

/-- The address of the second-level descriptor in the raw bits of the Page table word is that of the decoded one (R45). -/
theorem l2DescAddr_pageTableOfWord (d1 va : Word) :
    d1.extractLsb 31 10 ++ va.extractLsb 19 12 ++ 0#2 = l2DescAddr (pageTableOfWord d1) va := rfl

theorem walkLeaf_below_noData {s : State} {d1 : Word} {p : PageTableDesc}
    (h : s.walkRead (l1DescAddr s.regs s.req.va) = some d1) (hdecode : decodeFirst s.cfg d1 = .ok (.l1PageTable p))
    (hread : s.walkRead (l2DescAddr p s.req.va) = none) :
    walkLeaf s = .stop (.responds (.fault .externalAbortOnWalk .second none)) := by
  obtain ⟨h1, h0, rfl⟩ := decodeWord_eq_pageTable (cfg := s.cfg) hdecode
  rw [bitAt] at h1 h0
  simp only [walkLeaf, h, h1, h0, l2DescAddr_pageTableOfWord, hread]
  rfl

/-- A second-level descriptor ends the walk. -/
theorem walkLeaf_below {s : State} {d1 d2 : Word} {p : PageTableDesc} {r : WalkResult}
    (h : s.walkRead (l1DescAddr s.regs s.req.va) = some d1) (hdecode : decodeFirst s.cfg d1 = .ok (.l1PageTable p))
    (hread : s.walkRead (l2DescAddr p s.req.va) = some d2)
    (hyields : descriptorYields { s with parent := p } (decodeSecond d2) = some r) : walkLeaf s = r := by
  obtain ⟨h1, h0, rfl⟩ := decodeWord_eq_pageTable (cfg := s.cfg) hdecode
  rw [walkSecondLevel_eq] at hyields
  rw [← Option.some.inj hyields]
  rw [bitAt] at h1 h0
  simp only [walkLeaf, h, h1, h0, l2DescAddr_pageTableOfWord, hread]
  rfl

theorem decodeSecond_yields (s : State) (w : Word) : ∃ r, descriptorYields s (decodeSecond w) = some r := by
  obtain ⟨-, -, e⟩ | ⟨-, -, e⟩ | ⟨-, e⟩ := decodeSecond_cases w <;> rw [e] <;> exact ⟨_, rfl⟩

/-- A first-level descriptor goes down, or ends the walk. -/
theorem decodeFirst_yields (s : State) {w : Word} {i : Instr} (h : decodeFirst s.cfg w = .ok i) :
    (∃ p, i = .l1PageTable p) ∨ ∃ r, descriptorYields s i = some r := by
  obtain ⟨-, -, e⟩ | ⟨-, -, e⟩ | ⟨-, -, -, e⟩ | ⟨-, -, -, e⟩ | ⟨-, -, -, e⟩ := decodeFirst_cases s.cfg w <;>
    cases e.symm.trans h
  · exact .inr ⟨_, rfl⟩
  · exact .inl ⟨_, rfl⟩
  · exact .inr ⟨_, rfl⟩
  · exact .inr ⟨_, rfl⟩

/-! ### The walk is what the steps of the machine do -/

/-- The descriptor that the walk in progress has read is the one the tables hold. -/
def State.ParentRead (s : State) : Prop :=
  ∃ d1, s.walkRead (l1DescAddr s.regs s.req.va) = some d1 ∧ decodeFirst s.cfg d1 = .ok (.l1PageTable s.parent)

theorem fetchWord_first {s : State} (h : s.walk = .first) : s.fetchWord = s.walkRead (l1DescAddr s.regs s.req.va) := by
  rw [State.fetchWord, State.fetchAddr, h]

theorem fetchWord_second {s : State} (h : s.walk = .second) : s.fetchWord = s.walkRead (l2DescAddr s.parent s.req.va) := by
  rw [State.fetchWord, State.fetchAddr, h]

/-- The second step is the rest of the walk, and steps 4 to 6. -/
theorem runDescriptor_second {s : State} (hwalk : s.walk = .second) (hparent : s.ParentRead) :
    runDescriptor .second s = s.finish (walkLeaf s) := by
  obtain ⟨d1, hd1, hdecode⟩ := hparent
  cases hfetch : s.fetchWord with
  | none =>
    rw [runDescriptor_of_noData hfetch, walkLeaf_below_noData hd1 hdecode (fetchWord_second hwalk ▸ hfetch)]
    rfl
  | some d2 =>
    obtain ⟨r, hr⟩ := decodeSecond_yields s d2
    rw [runDescriptor_of_decode hfetch rfl, exec_of_yields hr,
      walkLeaf_below hd1 hdecode (fetchWord_second hwalk ▸ hfetch) hr]

/-- The first step goes down below a Page table descriptor, or it is the whole walk, and steps 4 to 6. -/
theorem runDescriptor_first {s : State} (hwalk : s.walk = .first) :
    (∃ p, ({ s with parent := p, walk := .second } : State).ParentRead ∧
      runDescriptor .first s = .next { s with parent := p, walk := .second }) ∨
    runDescriptor .first s = s.finish (walkLeaf s) := by
  cases hfetch : s.fetchWord with
  | none =>
    rw [runDescriptor_of_noData hfetch, walkLeaf_noData (fetchWord_first hwalk ▸ hfetch)]
    exact .inr rfl
  | some d1 =>
    have hread := (fetchWord_first hwalk).symm.trans hfetch
    have hword : decodeWord s.cfg .first d1 = decodeFirst s.cfg d1 := rfl
    cases hdecode : decodeFirst s.cfg d1 with
    | error e =>
      rw [runDescriptor_of_reserved hfetch (hword.trans hdecode), walkLeaf_reserved hread hdecode, reservedType_eq]
      exact .inr rfl
    | ok i =>
      rw [runDescriptor_of_decode hfetch (hword.trans hdecode)]
      obtain ⟨p, rfl⟩ | ⟨r, hr⟩ := decodeFirst_yields s hdecode
      · exact .inl ⟨p, ⟨d1, hread, hdecode⟩, rfl⟩
      · exact .inr (by rw [exec_of_yields hr, walkLeaf_first hread hdecode hr])

/-! ### What the walk reads -/

/-- The two states have the same parameters, request and tables, and the walk starts at the same descriptor. -/
structure SameWalk (s t : State) : Prop where
  cfg : t.cfg = s.cfg
  req : t.req = s.req
  walkMem : t.walkMem = s.walkMem
  descAddr : l1DescAddr t.regs s.req.va = l1DescAddr s.regs s.req.va

theorem SameWalk.secure {s t : State} (h : SameWalk s t) : t.secure = s.secure := by
  rw [State.secure, State.secure, h.cfg, h.req]

theorem SameWalk.walkRead {s t : State} (h : SameWalk s t) : t.walkRead = s.walkRead :=
  funext fun _ => walkRead_congr h.cfg fun _ _ => by rw [h.walkMem]

/-- The repetition check reads the parameters and the map of the walk. -/
theorem repetitionBad_congr {s t : State} (hcfg : t.cfg = s.cfg) (hread : t.walkRead = s.walkRead) :
    t.repetitionBad = s.repetitionBad := by
  funext a w
  rw [State.repetitionBad, State.repetitionBad, hcfg, hread]

theorem SameWalk.walkLeaf {s t : State} (h : SameWalk s t) : walkLeaf t = walkLeaf s := by
  simp only [Machine.walkLeaf, walkFirstLevelMapping, walkSecondLevel, h.cfg, h.req, h.walkRead,
    repetitionBad_congr h.cfg h.walkRead, h.descAddr]

/-- Steps 4 to 6 read AFE and the DACR of the registers (R105, R111, R144, R154). -/
theorem checkLeaf_congr {r r' : ControlRegs} (hafe : sctlrAfe r' = sctlrAfe r) (hdacr : r'.dacr = r.dacr) :
    checkLeaf r' = checkLeaf r := by
  have hflag : accessFlagClear r' = accessFlagClear r := by
    funext a
    rw [accessFlagClear, accessFlagClear, hafe]
  have hfield : dacrField r' = dacrField r := by
    funext n
    rw [dacrField, dacrField, hdacr]
  have hdomain : checkDomain r' = checkDomain r := by
    funext n
    rw [checkDomain, checkDomain, hfield]
  have hperm : checkPermission r' = checkPermission r := by
    funext a kind pl
    rw [checkPermission, checkPermission, hafe]
  funext req secure l
  rw [checkLeaf, checkLeaf, hflag, hdomain, hperm]

theorem translateReq_of_leaf {s : State} {l : Leaf} (h : walkLeaf s = .leaf l) : translateReq s = s.checked l := by
  rw [translateReq, h]

theorem translateReq_of_stop {s : State} {t : Translation} (h : walkLeaf s = .stop t) : translateReq s = t := by
  rw [translateReq, h]

theorem SameWalk.translateReq {s t : State} (h : SameWalk s t) (hafe : sctlrAfe t.regs = sctlrAfe s.regs)
    (hdacr : t.regs.dacr = s.regs.dacr) : translateReq t = translateReq s := by
  have hchecked : t.checked = s.checked := by
    funext l
    rw [State.checked, State.checked, checkLeaf_congr hafe hdacr, h.req, h.secure]
  cases hwalk : Machine.walkLeaf s with
  | leaf l => rw [translateReq_of_leaf hwalk, translateReq_of_leaf (h.walkLeaf.trans hwalk), hchecked]
  | stop x => rw [translateReq_of_stop hwalk, translateReq_of_stop (h.walkLeaf.trans hwalk)]

theorem Frame.sameWalk {s t : State} (h : Frame s t) : SameWalk s t :=
  ⟨h.cfg, h.req, h.walkMem, by rw [h.regs]⟩

theorem Frame.translateReq {s t : State} (h : Frame s t) : translateReq t = translateReq s :=
  h.sameWalk.translateReq (by rw [h.regs]) (by rw [h.regs])

/-! ### The steps compute `Translate` -/

@[simp] theorem answerOf_conclude (s : State) (t : Translation) : answerOf (s.conclude t) = some t := by
  cases t <;> rfl

theorem answerOf_finish_walkLeaf (s : State) : answerOf (s.finish (walkLeaf s)) = some (translateReq s) := by
  cases h : walkLeaf s with
  | leaf l => rw [translateReq_of_leaf h]; exact answerOf_conclude _ _
  | stop t => rw [translateReq_of_stop h]; exact answerOf_conclude _ _

/-- A step that ends the translation is the whole translation. -/
theorem serve_of_ends {s : State} (h : ∀ t, step s = .next t → t.walk = .idle) : serve s = step s := by
  rw [serve]
  cases hstep : step s with
  | next t => simp [h t hstep]
  | fault r => rfl
  | refused r => rfl

theorem conclude_ends {s t : State} {x : Translation} (h : s.conclude x = .next t) : t.walk = .idle := by
  obtain ⟨r, -, rfl⟩ := conclude_next h
  rfl

theorem finish_ends {s t : State} {r : WalkResult} (h : s.finish r = .next t) : t.walk = .idle := by
  cases r with
  | leaf l => exact conclude_ends h
  | stop x => exact conclude_ends h

/-- Whenever a kept record that may answer agrees with the walk, the one or two steps answer what `Translate` gives. -/
theorem answerOf_serve {s : State} (hwalk : s.walk = .first)
    (hkept : ∀ e, s.tlbPick = some e → walkLeaf s = .leaf (e.leafFor s.req.va)) :
    answerOf (serve s) = some (translateReq s) := by
  cases hpick : s.tlbPick with
  | some e =>
    have hstep := step_first_kept hwalk hpick
    rw [serve_of_ends fun t ht => conclude_ends (hstep ▸ ht), hstep, answerOf_conclude, translateReq_of_leaf (hkept e hpick)]
  | none =>
    have hstep := step_first_walks hwalk hpick
    have hframe := Frame.countChoice s
    obtain ⟨p, hparent, hrun⟩ | hrun := runDescriptor_first (s := s.countChoice) (by rw [State.countChoice_walk, hwalk])
    · have hserve : serve s = step { s.countChoice with parent := p, walk := .second } := by
        rw [serve, hstep, hrun]
        rfl
      rw [hserve, step_second rfl, runDescriptor_second rfl hparent, answerOf_finish_walkLeaf,
        (hframe.trans (Frame.goDown _ p)).translateReq]
    · rw [hrun] at hstep
      rw [serve_of_ends fun t ht => finish_ends (hstep ▸ ht), hstep, answerOf_finish_walkLeaf, hframe.translateReq]

/-- Settles O48: with static tables no record answers. -/
theorem stepsComputeTranslate : Obligations.StepsComputeTranslate := by
  intro s hwalk hstatic
  refine answerOf_serve hwalk fun e he => ?_
  rw [tlbPick_of_static hstatic] at he
  cases he

/-- Settles O49: a record that answers covers the address, and there it agrees with the tables. -/
theorem keptTranslationsAreUnobservable : Obligations.KeptTranslationsAreUnobservable := by
  intro s hwalk hcoherent
  refine answerOf_serve hwalk fun e he => ?_
  obtain ⟨-, hmem, hcovers⟩ := tlbPick_some he
  exact hcoherent.kept e hmem s.req.va hcovers

end Sys2Proof.Machine

/-! PROOFS. What `Translate` depends on (10_state.md section 9, 60_exceptions.md section 5, 70_reset_and_hazards.md section 3; R43,
R49, R186, R202). -/

namespace Sys2Proof.Machine

/-! ### Registers -/

/-- The walk starts where N and the base fields say (R133). -/
theorem l1DescAddr_congr_regs {r r' : ControlRegs} (va : Word) (hN : ttbcrN r' = ttbcrN r)
    (h0 : r'.ttbr0 >>> (14 - ttbcrN r) = r.ttbr0 >>> (14 - ttbcrN r)) (h1 : r'.ttbr1 >>> 14 = r.ttbr1 >>> 14) :
    l1DescAddr r' va = l1DescAddr r va := by
  have huses : usesTTBR0 r' va = usesTTBR0 r va := by rw [usesTTBR0, usesTTBR0, hN]
  have hindex : l1Index r' va = l1Index r va := by rw [l1Index, l1Index, huses, hN]
  have hbase : l1TableBase r' va = l1TableBase r va := by
    rw [l1TableBase, l1TableBase, huses, hN, clearBelow, clearBelow, clearBelow, clearBelow, h0, h1]
  rw [l1DescAddr, l1DescAddr, hbase, hindex]

/-- Settles O54. -/
theorem translateReadsOnlyWhatItLists : Obligations.TranslateReadsOnlyWhatItLists := by
  intro s s' hcfg hreq hmem hafe hN hdacr h0 h1
  have hwalk : SameWalk s s' := ⟨hcfg, hreq, hmem, l1DescAddr_congr_regs s.req.va hN h0 h1⟩
  exact hwalk.translateReq hafe hdacr

theorem writeReg_dacr_regs (s : State) (v : Word) : (s.writeReg s.secure .dacr v).regs = { s.regs with dacr := v } := by
  have hsecure : (s.writeReg s.secure .dacr v).secure = s.secure := by simp [State.secure]
  rw [State.regs, hsecure, State.regs]
  cases s.secure <;> rfl

/-- The DACR is not an input of the walk. -/
theorem writeReg_dacr_sameWalk (s : State) (v : Word) : SameWalk s (s.writeReg s.secure .dacr v) where
  cfg := State.writeReg_cfg ..
  req := State.writeReg_req ..
  walkMem := by simp [State.walkMem, State.secure]
  descAddr := by rw [writeReg_dacr_regs]; rfl

/-- Settles O56. -/
theorem newDacrAppliesAtOnce : Obligations.NewDacrAppliesAtOnce := by
  intro s v
  have hsame := writeReg_dacr_sameWalk s v
  refine ⟨hsame.walkLeaf, ?_⟩
  cases hwalk : walkLeaf s with
  | leaf l =>
    rw [translateReq_of_leaf (hsame.walkLeaf.trans hwalk), State.checked, writeReg_dacr_regs, hsame.req, hsame.secure]
  | stop t => exact translateReq_of_stop (hsame.walkLeaf.trans hwalk)

/-! ### Security states -/

theorem sameWalk_of_regs_walkMem {s t : State} (hcfg : t.cfg = s.cfg) (hreq : t.req = s.req) (hregs : t.regs = s.regs)
    (hmem : t.walkMem = s.walkMem) : SameWalk s t :=
  ⟨hcfg, hreq, hmem, by rw [hregs]⟩

/-- A Non-secure request is served by the Non-secure registers and map alone (R46, R186). -/
theorem translateReq_congr_nonsecure {s t : State} (hcfg : t.cfg = s.cfg) (hreq : t.req = s.req) (hs : s.secure = false)
    (hregs : t.regsNS = s.regsNS) (hmem : t.memNS = s.memNS) : translateReq t = translateReq s := by
  have ht : t.secure = false := by rw [← hs, State.secure, State.secure, hcfg, hreq]
  have hregs' : t.regs = s.regs := by simp [State.regs, hs, ht, hregs]
  exact (sameWalk_of_regs_walkMem hcfg hreq hregs' (by simp [State.walkMem, hs, ht, hmem])).translateReq
    (by rw [hregs']) (by rw [hregs'])

/-- Every other request is served by the Secure registers and map alone. -/
theorem translateReq_congr_secure {s t : State} (hcfg : t.cfg = s.cfg) (hreq : t.req = s.req) (hs : s.secure = true)
    (hregs : t.regsS = s.regsS) (hmem : t.memS = s.memS) : translateReq t = translateReq s := by
  have ht : t.secure = true := by rw [← hs, State.secure, State.secure, hcfg, hreq]
  have hregs' : t.regs = s.regs := by simp [State.regs, hs, ht, hregs]
  exact (sameWalk_of_regs_walkMem hcfg hreq hregs' (by simp [State.walkMem, hs, ht, hmem])).translateReq
    (by rw [hregs']) (by rw [hregs'])

/-- The walk itself never ends in an `Ok`: it stops with a fault or a refusal. -/
theorem walkLeaf_stop_ne_ok {s : State} {pa : PhysAddr} {ns : Bool} {a : Attrs} :
    walkLeaf s ≠ .stop (.responds (.ok pa ns a)) := by
  have hyields : ∀ (u : State) (i : Instr), descriptorYields u i ≠ some (.stop (.responds (.ok pa ns a))) := by
    intro u i h
    cases i with
    | l1Fault ign | l1PageTable d | l1Section d | l2Fault ign => cases h
    | l1Supersection d | l2SmallPage d =>
      have h := Option.some.inj h
      split at h <;> cases h
    | l2LargePage d =>
      have h := Option.some.inj h
      split at h
      · cases h
      · split at h <;> cases h
  intro h
  cases hread : s.walkRead (l1DescAddr s.regs s.req.va) with
  | none => cases (walkLeaf_noData hread).symm.trans h
  | some d1 =>
    cases hdecode : decodeFirst s.cfg d1 with
    | error e =>
      have hend := (walkLeaf_reserved hread hdecode).symm.trans h
      rw [reservedEnd] at hend
      cases hp : s.cfg.l1Type3NoPxn <;> rw [hp] at hend <;> cases hend
    | ok i =>
      obtain ⟨p, rfl⟩ | ⟨r, hr⟩ := decodeFirst_yields s hdecode
      · cases hread2 : s.walkRead (l2DescAddr p s.req.va) with
        | none => cases (walkLeaf_below_noData hread hdecode hread2).symm.trans h
        | some d2 =>
          obtain ⟨r, hr⟩ := decodeSecond_yields { s with parent := p } d2
          exact hyields _ _ (hr.trans (congrArg some ((walkLeaf_below hread hdecode hread2 hr).symm.trans h)))
      · exact hyields _ _ (hr.trans (congrArg some ((walkLeaf_first hread hdecode hr).symm.trans h)))

/-- An `Ok` of `Translate` comes from a leaf of the walk. -/
theorem translateReq_ok {s : State} {pa : PhysAddr} {ns : Bool} {a : Attrs} (h : translateReq s = .responds (.ok pa ns a)) :
    ∃ l, walkLeaf s = .leaf l ∧ s.checked l = .responds (.ok pa ns a) := by
  cases hwalk : walkLeaf s with
  | leaf l => exact ⟨l, rfl, translateReq_of_leaf hwalk ▸ h⟩
  | stop t =>
    obtain rfl := (translateReq_of_stop hwalk).symm.trans h
    exact absurd hwalk walkLeaf_stop_ne_ok

/-- Settles O57: the steps answer what `Translate` gives, by O48. -/
theorem translationFromTablesReadsOneSecurityState : Obligations.TranslationFromTablesReadsOneSecurityState := by
  intro s s' hcfg hreq
  have hnonsecure (hext : s.cfg.securityExt = true) (hns : s.req.secure = false) : s.secure = false := by
    simp [State.secure, hext, hns]
  have hsecure (h : s.cfg.securityExt = false ∨ s.req.secure = true) : s.secure = true := by
    rcases h with h | h <;> simp [State.secure, h]
  have hanswer (hstatic : s.cfg.tlbModel = .staticTables) (hwalk : s.walk = .first) (hwalk' : s'.walk = .first)
      (h : translateReq s' = translateReq s) : answerOf (serve s') = answerOf (serve s) := by
    rw [stepsComputeTranslate s hwalk hstatic, stepsComputeTranslate s' hwalk' (hcfg ▸ hstatic), h]
  refine ⟨fun hext hns hregs hmem => ⟨?_, fun pa ns a hok => ?_⟩, fun h hregs hmem => ?_,
    fun hstatic hwalk hwalk' => ⟨?_, ?_⟩⟩
  · exact translateReq_congr_nonsecure hcfg hreq (hnonsecure hext hns) hregs hmem
  · obtain ⟨l, -, hchecked⟩ := translateReq_ok hok
    obtain ⟨-, rfl, -, -⟩ := checked_ok hchecked
    rw [hnonsecure hext hns]
    rfl
  · exact translateReq_congr_secure hcfg hreq (hsecure h) hregs hmem
  · intro hext hns hregs hmem
    exact hanswer hstatic hwalk hwalk' (translateReq_congr_nonsecure hcfg hreq (hnonsecure hext hns) hregs hmem)
  · intro h hregs hmem
    exact hanswer hstatic hwalk hwalk' (translateReq_congr_secure hcfg hreq (hsecure h) hregs hmem)

end Sys2Proof.Machine

/-! PROOFS. Two addresses of one block: the descriptors they reach and the leaves they get (20_memory.md sections 1 and 3; R43, R44,
R50, R57). -/

namespace Sys2Proof.Machine

/-! ### Descriptor addresses of addresses that agree above some bit -/

/-- N is at most 7, so the choice of the base register reads no bit below 25 (R131). -/
theorem usesTTBR0_congr_va (r : ControlRegs) {va va' : Word} (h : va' >>> 24 = va >>> 24) :
    usesTTBR0 r va' = usesTTBR0 r va := by
  have hN := ttbcrN_le r
  have hsplit : 2 ^ (32 - ttbcrN r) = 2 ^ (8 - ttbcrN r) * 2 ^ 24 := by rw [← Nat.pow_add]; congr 1; omega
  rw [Bool.eq_iff_iff, usesTTBR0_iff_lt, usesTTBR0_iff_lt, hsplit, ← Nat.div_lt_iff_lt_mul (by decide),
    ← Nat.div_lt_iff_lt_mul (by decide), toNat_div_eq h]

theorem l1IndexBits_congr_va (r : ControlRegs) {va va' : Word} (h : va' >>> 24 = va >>> 24) :
    l1IndexBits r va' = l1IndexBits r va := by
  rw [l1IndexBits, l1IndexBits, usesTTBR0_congr_va r h]

theorem l1TableBase_congr_va (r : ControlRegs) {va va' : Word} (h : va' >>> 24 = va >>> 24) :
    l1TableBase r va' = l1TableBase r va := by
  rw [l1TableBase, l1TableBase, usesTTBR0_congr_va r h]

/-- All addresses of one MByte reach the same first-level descriptor. -/
theorem l1DescAddr_congr_va (r : ControlRegs) {va va' : Word} (h : va' >>> 20 = va >>> 20) :
    l1DescAddr r va' = l1DescAddr r va := by
  have h24 : va' >>> 24 = va >>> 24 := shiftRight_eq_of_le (by decide) h
  have hindex : (l1Index r va').toNat = (l1Index r va).toNat := by
    rw [l1Index_toNat, l1Index_toNat, toNat_div_eq h, l1IndexBits_congr_va r h24]
  rw [l1DescAddr, l1DescAddr, l1TableBase_congr_va r h24, BitVec.eq_of_toNat_eq hindex]

/-- The base of a first-level table is the address of a group of sixteen slots. -/
theorem l1TableBase_mod (r : ControlRegs) (va : Word) : (l1TableBase r va).toNat % 64 = 0 := by
  have hN := ttbcrN_le r
  have hbits : l1IndexBits r va + 2 = 6 + (l1IndexBits r va - 4) := by
    unfold l1IndexBits
    split <;> omega
  rw [l1TableBase_toNat, hbits, Nat.pow_add, Nat.mul_left_comm]
  exact Nat.mul_mod_right _ _

theorem clearBelow_eq_of_div {a b : Word} (h : a.toNat / 64 = b.toNat / 64) : clearBelow a 6 = clearBelow b 6 := by
  apply BitVec.eq_of_toNat_eq
  rw [clearBelow, clearBelow, shiftRight_shiftLeft_toNat, shiftRight_shiftLeft_toNat, show 2 ^ 6 = 64 from rfl, h]

/-- All addresses of one Supersection reach one group of sixteen first-level slots (R57). -/
theorem l1DescAddr_group_congr_va (r : ControlRegs) {va va' : Word} (h : va' >>> 24 = va >>> 24) :
    clearBelow (l1DescAddr r va') 6 = clearBelow (l1DescAddr r va) 6 := by
  have hN := ttbcrN_le r
  have hpow : 2 ^ l1IndexBits r va = 2 ^ 4 * 2 ^ (l1IndexBits r va - 4) := by
    rw [← Nat.pow_add]
    congr 1
    unfold l1IndexBits
    split <;> omega
  have hindex : (l1Index r va').toNat / 2 ^ 4 = (l1Index r va).toNat / 2 ^ 4 := by
    rw [l1Index_toNat, l1Index_toNat, l1IndexBits_congr_va r h, hpow, Nat.mod_mul_right_div_self,
      Nat.mod_mul_right_div_self, Nat.div_div_eq_div_mul, Nat.div_div_eq_div_mul, ← Nat.pow_add, toNat_div_eq h]
  have hbase := l1TableBase_mod r va
  apply clearBelow_eq_of_div
  rw [l1DescAddr_toNat, l1DescAddr_toNat, l1TableBase_congr_va r h]
  omega

/-- All addresses of one 4 KByte page reach the same second-level descriptor. -/
theorem l2DescAddr_congr_va (p : PageTableDesc) {va va' : Word} (h : va' >>> 12 = va >>> 12) :
    l2DescAddr p va' = l2DescAddr p va := by
  apply BitVec.eq_of_toNat_eq
  rw [l2DescAddr_toNat, l2DescAddr_toNat, toNat_div_eq h]

/-- All addresses of one Large page reach one group of sixteen second-level slots (R57). -/
theorem l2DescAddr_group_congr_va (p : PageTableDesc) {va va' : Word} (h : va' >>> 16 = va >>> 16) :
    clearBelow (l2DescAddr p va') 6 = clearBelow (l2DescAddr p va) 6 := by
  have hdiv := toNat_div_eq h
  apply clearBelow_eq_of_div
  rw [l2DescAddr_toNat, l2DescAddr_toNat]
  omega

/-! ### Reading a repeated descriptor -/

theorem repetitionBad_congr_group (s : State) {a a' : Word} (w : Word) (h : clearBelow a' 6 = clearBelow a 6) :
    s.repetitionBad a' w = s.repetitionBad a w := by
  rw [State.repetitionBad, State.repetitionBad, groupSlots, groupSlots, h]

/-- Where the repetition is checked, every aligned word of the group reads as the descriptor. -/
theorem walkRead_of_group {s : State} {a a' w : Word} (hchecked : s.cfg.wf1Checked = true)
    (hgood : s.repetitionBad a w = false) (haligned : a'.toNat % 4 = 0) (hgroup : clearBelow a' 6 = clearBelow a 6) :
    s.walkRead a' = some w := by
  have hslot : clearBelow a 6 + BitVec.ofNat 32 (4 * (a'.toNat % 64 / 4)) = a' := by
    apply BitVec.eq_of_toNat_eq
    have hlt := a'.isLt
    rw [← hgroup, BitVec.toNat_add, clearBelow, shiftRight_shiftLeft_toNat, BitVec.toNat_ofNat]
    omega
  have hread := repetitionBad_eq_false_iff.mp hgood hchecked (a'.toNat % 64 / 4) (by omega)
  rwa [hslot] at hread

theorem l1DescAddr_aligned (r : ControlRegs) (va : Word) : (l1DescAddr r va).toNat % 4 = 0 := by
  have hbase := l1TableBase_mod r va
  rw [l1DescAddr_toNat]
  omega

theorem l2DescAddr_aligned (p : PageTableDesc) (va : Word) : (l2DescAddr p va).toNat % 4 = 0 := by
  rw [l2DescAddr_toNat]
  omega

/-! ### What a descriptor yields at another address -/

@[simp] theorem State.atVa_repetitionBad (s : State) (va a w : Word) :
    (s.atVa va).repetitionBad a w = s.repetitionBad a w := by
  simp [State.repetitionBad]

/-- The well-formedness of a mapping descriptor is the same at every address of its block. -/
theorem passesStep3_atVa {s : State} {i : Instr} {l : Leaf} (hleaf : mappedLeaf s i = some l) {va : Word}
    (h : va >>> blockBits l.attrs.size = s.req.va >>> blockBits l.attrs.size) :
    passesStep3 (s.atVa va) i = passesStep3 s i := by
  cases i with
  | l1Fault ign | l1PageTable d | l2Fault ign => cases hleaf
  | l1Section d | l2SmallPage d => rfl
  | l1Supersection d =>
    obtain rfl := Option.some.inj hleaf
    simp only [passesStep3, State.atVa_repetitionBad, State.atVa_regs, State.atVa_req]
    rw [repetitionBad_congr_group s _ (l1DescAddr_group_congr_va s.regs h)]
  | l2LargePage d =>
    obtain rfl := Option.some.inj hleaf
    simp only [passesStep3, State.atVa_repetitionBad, State.atVa_parent, State.atVa_req, State.atVa_cfg]
    rw [repetitionBad_congr_group s _ (l2DescAddr_group_congr_va s.parent h)]

/-- A mapping descriptor yields the same leaf at every address of its block, but for the low bits. -/
theorem yields_leaf_atVa {s : State} {i : Instr} {l : Leaf} (hyields : descriptorYields s i = some (.leaf l)) {k : Nat}
    (hk : k ≤ blockBits l.attrs.size) {va : Word} (h : va >>> k = s.req.va >>> k) :
    descriptorYields (s.atVa va) i = some (.leaf (l.withLowBits k va)) := by
  obtain ⟨hleaf, hpass⟩ := yields_leaf_iff.mp hyields
  exact yields_leaf_iff.mpr
    ⟨mappedLeaf_atVa hleaf hk h, (passesStep3_atVa hleaf (shiftRight_eq_of_le hk h)).trans hpass⟩

/-- No block is smaller than a 4 KByte page. -/
theorem twelve_le_blockBits (size : BlockSize) : 12 ≤ blockBits size := by cases size <;> decide

/-- A descriptor that ends the walk without a leaf does so at every address of the 4 KByte page. -/
theorem yields_stop_atVa {s : State} {i : Instr} {t : Translation} (hyields : descriptorYields s i = some (.stop t))
    {va : Word} (h : va >>> 12 = s.req.va >>> 12) : descriptorYields (s.atVa va) i = some (.stop t) := by
  have h1 := l1DescAddr_congr_va s.regs (shiftRight_eq_of_le (by decide) h : va >>> 20 = s.req.va >>> 20)
  have h2 := l2DescAddr_congr_va s.parent h
  cases i with
  | l1PageTable d | l1Section d => cases hyields
  | l1Fault ign | l2Fault ign => exact hyields
  | l1Supersection d =>
    simp only [descriptorYields, State.atVa_repetitionBad, State.atVa_regs, State.atVa_req, h1] at hyields ⊢
    split at hyields
    · next hbad => rw [if_pos hbad]; exact hyields
    · cases hyields
  | l2LargePage d =>
    simp only [descriptorYields, State.atVa_repetitionBad, State.atVa_cfg, State.atVa_parent, State.atVa_req, h2] at hyields ⊢
    split at hyields
    · next hsbz => rw [if_pos hsbz]; exact hyields
    · next hsbz =>
      rw [if_neg hsbz]
      split at hyields
      · next hbad => rw [if_pos hbad]; exact hyields
      · cases hyields
  | l2SmallPage d =>
    simp only [descriptorYields] at hyields ⊢
    split at hyields
    · next hsbz => exact (congrArg some (if_pos hsbz)).trans hyields
    · cases hyields

/-! ### The walk of two addresses of one page -/

/-- What the walk yields, with the low `k` bits of a leaf's address taken from `va`. -/
def WalkResult.withLowBits (k : Nat) (va : Word) : WalkResult → WalkResult
  | .leaf l => .leaf (l.withLowBits k va)
  | .stop t => .stop t

theorem descriptorYields_atVa {s : State} {i : Instr} {r : WalkResult} (hyields : descriptorYields s i = some r) {va : Word}
    (h : va >>> 12 = s.req.va >>> 12) : descriptorYields (s.atVa va) i = some (r.withLowBits 12 va) := by
  cases r with
  | leaf l => exact yields_leaf_atVa hyields (twelve_le_blockBits _) h
  | stop t => exact yields_stop_atVa hyields h

theorem walkLeaf_atVa {s : State} {va : Word} (h : va >>> 12 = s.req.va >>> 12) :
    walkLeaf (s.atVa va) = (walkLeaf s).withLowBits 12 va := by
  have h1 : (s.atVa va).walkRead (l1DescAddr (s.atVa va).regs (s.atVa va).req.va) =
      s.walkRead (l1DescAddr s.regs s.req.va) := by
    simp [l1DescAddr_congr_va s.regs (shiftRight_eq_of_le (by decide) h : va >>> 20 = s.req.va >>> 20)]
  cases hread : s.walkRead (l1DescAddr s.regs s.req.va) with
  | none => rw [walkLeaf_noData hread, walkLeaf_noData (h1.trans hread)]; rfl
  | some d1 =>
    cases hdecode : decodeFirst s.cfg d1 with
    | error e => rw [walkLeaf_reserved hread hdecode, walkLeaf_reserved (h1.trans hread) hdecode]; rfl
    | ok i =>
      obtain ⟨p, rfl⟩ | ⟨r, hr⟩ := decodeFirst_yields s hdecode
      · have h2 : (s.atVa va).walkRead (l2DescAddr p (s.atVa va).req.va) = s.walkRead (l2DescAddr p s.req.va) := by
          simp [l2DescAddr_congr_va p h]
        cases hread2 : s.walkRead (l2DescAddr p s.req.va) with
        | none =>
          rw [walkLeaf_below_noData hread hdecode hread2,
            walkLeaf_below_noData (h1.trans hread) hdecode (h2.trans hread2)]
          rfl
        | some d2 =>
          obtain ⟨r, hr⟩ := decodeSecond_yields { s with parent := p } d2
          rw [walkLeaf_below hread hdecode hread2 hr]
          exact walkLeaf_below (h1.trans hread) hdecode (h2.trans hread2) (descriptorYields_atVa hr h)
      · rw [walkLeaf_first hread hdecode hr]
        exact walkLeaf_first (h1.trans hread) hdecode (descriptorYields_atVa hr h)

/-- An answer, with the low `k` bits of the address of an `Ok` taken from `va`. -/
def Translation.withLowBits (k : Nat) (va : Word) : Translation → Translation
  | .responds (.ok pa ns a) => .responds (.ok (pa >>> k <<< k ||| (va.setWidth k).setWidth 40) ns a)
  | other => other

/-- Steps 4 to 6 read nothing of the address but for the `Ok`. -/
theorem checked_withLowBits (s : State) (k : Nat) (va : Word) (l : Leaf) :
    (s.atVa va).checked (l.withLowBits k va) = (s.checked l).withLowBits k va := by
  have hattrs : (l.withLowBits k va).attrs = l.attrs := rfl
  simp only [State.checked, State.atVa_regs, State.atVa_secure, State.atVa_req, checkLeaf, hattrs]
  cases accessFlagClear s.regs l.attrs with
  | true => rfl
  | false =>
    cases checkDomain s.regs l.attrs.domain with
    | noAccess | reserved | manager => rfl
    | client => cases checkPermission s.regs l.attrs s.req.kind s.req.pl <;> rfl

/-- Settles O55. -/
theorem lowAddressBitsPassThrough : Obligations.LowAddressBitsPassThrough := by
  intro s va h
  have hlow : translateReq (s.atVa va) = (translateReq s).withLowBits 12 va := by
    have hwalk := walkLeaf_atVa h
    cases hs : walkLeaf s with
    | leaf l =>
      rw [hs] at hwalk
      rw [translateReq_of_leaf hs, translateReq_of_leaf hwalk, checked_withLowBits]
    | stop t =>
      rw [hs] at hwalk
      rw [translateReq_of_stop hs, translateReq_of_stop hwalk]
      cases t with
      | unpredictable why => rfl
      | responds r =>
        cases r with
        | fault kind level domain => rfl
        | ok pa ns a => exact absurd hs walkLeaf_stop_ne_ok
  rw [hlow]
  cases translateReq s with
  | unpredictable why => rfl
  | responds r => cases r <;> rfl

end Sys2Proof.Machine

/-! PROOFS. Kept translations agree with the tables (20_memory.md sections 3 and 4, 70_reset_and_hazards.md section 3; R56, R57). -/

namespace Sys2Proof.Machine

/-! ### A record made for one address of a block is right for all of them -/

/-- The addresses that a record covers agree with the one it was made for above the block. -/
theorem tlbEntryOf_covers_iff {va va' : Word} {l : Leaf} :
    (tlbEntryOf va l).covers va' = true ↔ va' >>> blockBits l.attrs.size = va >>> blockBits l.attrs.size := by
  rw [TlbEntry.covers_iff]
  constructor
  · intro h
    apply BitVec.eq_of_toNat_eq
    have hval := congrArg BitVec.toNat h
    simp only [tlbEntryOf, clearBelow, shiftRight_shiftLeft_toNat] at hval
    simpa [Nat.shiftRight_eq_div_pow] using Nat.eq_of_mul_eq_mul_right (Nat.two_pow_pos _) hval
  · intro h
    exact congrArg (fun x : Word => x <<< blockBits l.attrs.size) h

/-- Where the repetition is checked, a first-level mapping descriptor is read at every address of its block. -/
theorem walkRead_first_of_block {s : State} {w : Word} {i : Instr} {l : Leaf} (hchecked : s.cfg.wf1Checked = true)
    (hread : s.walkRead (l1DescAddr s.regs s.req.va) = some w) (hdecode : decodeFirst s.cfg w = .ok i)
    (hleaf : mappedLeaf s i = some l) (hpass : passesStep3 s i = true) {va : Word}
    (h : va >>> blockBits l.attrs.size = s.req.va >>> blockBits l.attrs.size) :
    s.walkRead (l1DescAddr s.regs va) = some w := by
  obtain ⟨hencode, hlevel, -⟩ := encode_of_decodeFirst hdecode
  cases i with
  | l1Fault ign | l1PageTable d | l2Fault ign => cases hleaf
  | l2LargePage d | l2SmallPage d => cases hlevel
  | l1Section d =>
    obtain rfl := Option.some.inj hleaf
    rw [l1DescAddr_congr_va s.regs h, hread]
  | l1Supersection d =>
    obtain rfl := Option.some.inj hleaf
    rw [passesStep3, hencode, Bool.not_eq_true'] at hpass
    exact walkRead_of_group hchecked hpass (l1DescAddr_aligned _ _) (l1DescAddr_group_congr_va s.regs h)

/-- The same of a second-level mapping descriptor, whose block lies inside one MByte. -/
theorem walkRead_second_of_block {s : State} {w : Word} {l : Leaf} (hchecked : s.cfg.wf1Checked = true)
    (hread : s.walkRead (l2DescAddr s.parent s.req.va) = some w) (hleaf : mappedLeaf s (decodeSecond w) = some l)
    (hpass : passesStep3 s (decodeSecond w) = true) {va : Word}
    (h : va >>> blockBits l.attrs.size = s.req.va >>> blockBits l.attrs.size) :
    va >>> 20 = s.req.va >>> 20 ∧ s.walkRead (l2DescAddr s.parent va) = some w := by
  have hencode := encode_decodeSecond w
  have hlevel := decodeSecond_level w
  cases hi : decodeSecond w with
  | l1Fault ign | l1PageTable d | l2Fault ign => rw [hi] at hleaf; cases hleaf
  | l1Section d | l1Supersection d => rw [hi] at hlevel; cases hlevel
  | l2LargePage d =>
    rw [hi] at hleaf hpass hencode
    obtain rfl := Option.some.inj hleaf
    simp only [passesStep3, hencode, Bool.and_eq_true, Bool.not_eq_true'] at hpass
    exact ⟨shiftRight_eq_of_le (k := 16) (by decide) h,
      walkRead_of_group hchecked hpass.2 (l2DescAddr_aligned _ _) (l2DescAddr_group_congr_va s.parent h)⟩
  | l2SmallPage d =>
    rw [hi] at hleaf
    obtain rfl := Option.some.inj hleaf
    exact ⟨shiftRight_eq_of_le (k := 12) (by decide) h, by rw [l2DescAddr_congr_va s.parent h, hread]⟩

/-- What a step that produced a leaf knows of the walk: the level's descriptor, and that of the level above it. -/
def State.FetchedAt (s : State) : Level → Prop
  | .first => s.walk = .first
  | .second => s.walk = .second ∧ s.ParentRead

/-- The leaf that the walk produced is what the tables give at every address of its block, but for the low bits. -/
theorem walkLeaf_of_block {lvl : Level} {s : State} {w : Word} {i : Instr} {l : Leaf} (hchecked : s.cfg.wf1Checked = true)
    (hlvl : s.FetchedAt lvl) (hfetch : s.fetchWord = some w) (hdecode : decodeWord s.cfg lvl w = .ok i)
    (hleaf : mappedLeaf s i = some l) (hpass : passesStep3 s i = true) {va : Word}
    (h : va >>> blockBits l.attrs.size = s.req.va >>> blockBits l.attrs.size) :
    walkLeaf (s.atVa va) = .leaf (l.withLowBits (blockBits l.attrs.size) va) := by
  have hyields := yields_leaf_atVa (yields_leaf_iff.mpr ⟨hleaf, hpass⟩) le_rfl h
  cases lvl with
  | first =>
    rw [fetchWord_first hlvl] at hfetch
    have hread := walkRead_first_of_block hchecked hfetch hdecode hleaf hpass h
    exact walkLeaf_first (by simpa using hread) hdecode hyields
  | second =>
    obtain ⟨hwalk, d1, hd1, hparent⟩ := hlvl
    rw [fetchWord_second hwalk] at hfetch
    obtain rfl := Except.ok.inj hdecode
    obtain ⟨hmbyte, hread⟩ := walkRead_second_of_block hchecked hfetch hleaf hpass h
    exact walkLeaf_below (by simpa [l1DescAddr_congr_va s.regs hmbyte] using hd1) hparent (by simpa using hread) hyields

/-! ### The reset state -/

@[simp] theorem State.reset_tlb : State.reset.tlb = [] := rfl
@[simp] theorem State.reset_walk : State.reset.walk = .idle := rfl
@[simp] theorem State.reset_result : State.reset.result = none := rfl

/-! ### Every step keeps the agreement -/

theorem Frame.walkLeaf_atVa {s t : State} (h : Frame s t) (va : Word) : walkLeaf (t.atVa va) = walkLeaf (s.atVa va) := by
  refine (SameWalk.mk h.cfg ?_ ?_ ?_ : SameWalk (s.atVa va) (t.atVa va)).walkLeaf
  · rw [State.atVa_req, State.atVa_req, h.req]
  · rw [State.atVa_walkMem, State.atVa_walkMem, h.walkMem]
  · rw [State.atVa_regs, State.atVa_regs, h.regs]

/-- A record agrees with the tables at every address of its block (R56). -/
def State.Agrees (s : State) (e : TlbEntry) : Prop :=
  ∀ va, e.covers va = true → walkLeaf (s.atVa va) = .leaf (e.leafFor va)

theorem Frame.agrees {s t : State} (h : Frame s t) {e : TlbEntry} (he : s.Agrees e) : t.Agrees e :=
  fun va hcovers => (h.walkLeaf_atVa va).trans (he va hcovers)

/-- A state with the translation ended is coherent when its records agree with the tables. -/
theorem coherent_of_idle {s : State} (hidle : s.walk = .idle) (hkept : ∀ e ∈ s.tlb, s.Agrees e) : s.Coherent where
  kept := hkept
  parent hsecond := by cases hidle.symm.trans hsecond

theorem runDescriptor_keeps_coherent {lvl : Level} {s t : State} (hchecked : s.cfg.wf1Checked = true)
    (hlvl : s.FetchedAt lvl) (hkept : ∀ e ∈ s.tlb, s.Agrees e) (h : runDescriptor lvl s = .next t) : t.Coherent := by
  have hframe := runDescriptor_frame h
  obtain ⟨rfl, w, d, hfetch, hdecode, rfl⟩ | ⟨_, _, _, -, rfl⟩ | ⟨w, i, l, r, hfetch, hdecode, hleaf, hpass, -, rfl⟩ :=
    runDescriptor_effect h
  · exact ⟨fun e he => hframe.agrees (hkept e he), fun _ => ⟨w, (fetchWord_first hlvl).symm.trans hfetch, hdecode⟩⟩
  · exact coherent_of_idle rfl fun e he => hframe.agrees (hkept e he)
  · refine coherent_of_idle rfl fun e he => hframe.agrees ?_
    obtain he | rfl := State.mem_keep_tlb s l e he
    · exact hkept e he
    · intro va hcovers
      rw [tlbEntryOf_leafFor]
      exact walkLeaf_of_block hchecked hlvl hfetch hdecode hleaf hpass (tlbEntryOf_covers_iff.mp hcovers)

/-- Settles O50, by what a step can do. -/
theorem stepKeepsKeptTranslationsCoherent : Obligations.StepKeepsKeptTranslationsCoherent := by
  intro s t hchecked hcoherent h
  have hcount := Frame.countChoice s
  obtain ⟨-, rfl⟩ | ⟨hwalk, hrun⟩ | ⟨hwalk, e, -, hkept⟩ | ⟨hwalk, -, hrun⟩ := step_next h
  · exact hcoherent
  · have hsecond : s.FetchedAt .second := ⟨hwalk, hcoherent.parent hwalk⟩
    exact runDescriptor_keeps_coherent hchecked hsecond hcoherent.kept hrun
  · obtain ⟨r, -, rfl⟩ := useKept_next hkept
    refine coherent_of_idle rfl fun e' he' => (hcount.trans (Frame.answer _ r)).agrees (hcoherent.kept e' ?_)
    simpa using he'
  · have hfirst : s.countChoice.FetchedAt .first := (State.countChoice_walk s).trans hwalk
    refine runDescriptor_keeps_coherent (by rwa [hcount.cfg]) hfirst (fun e he => ?_) hrun
    exact hcount.agrees (hcoherent.kept e (by simpa using he))

/-- A state in which nothing is kept and no second-level read is due is coherent. -/
theorem coherent_of_nothing_kept {s : State} (hwalk : s.walk ≠ .second) (hnone : s.tlb = []) : s.Coherent where
  kept e he := by simp [hnone] at he
  parent hsecond := absurd hsecond hwalk

/-- Settles O51. -/
theorem nothingKeptIsCoherent : Obligations.NothingKeptIsCoherent :=
  ⟨coherent_of_nothing_kept (by simp) State.reset_tlb, fun _ _ hnone => coherent_of_nothing_kept (by simp) hnone⟩

end Sys2Proof.Machine

/-! PROOFS. The invariant of the state (10_state.md, 42_memory_attributes.md sections 4 and 5, 60_exceptions.md section 1). -/

namespace Sys2Proof.Machine

/-! ### Leaves and records that a descriptor can give -/

theorem leafPxn_supported {cfg : Config} {bit : Bool} (h : leafPxn cfg bit = true) : cfg.pxnSupported = true := by
  rw [leafPxn, Bool.and_eq_true] at h
  exact h.1

/-- A block whose base and offset are together 32 bits lies below 4 GBytes (R41). -/
theorem blockAddr_lt {n m : Nat} (base : BitVec n) (va : Word) (h : n + m = 32) :
    ((base ++ fieldAt va 0 m).setWidth 40).toNat < 2 ^ 32 := by
  rw [BitVec.toNat_setWidth_of_le (by omega), ← h]
  exact BitVec.isLt _

theorem mappedLeaf_wf {s : State} {i : Instr} {l : Leaf} (hleaf : mappedLeaf s i = some l) : l.Wf s.cfg := by
  cases i with
  | l1Fault ign | l1PageTable d | l2Fault ign => cases hleaf
  | l1Section d =>
    obtain rfl := Option.some.inj hleaf
    exact ⟨⟨by simp [leafOfSection], nofun, leafPxn_supported⟩, fun _ => blockAddr_lt d.base s.req.va rfl⟩
  | l1Supersection d =>
    obtain rfl := Option.some.inj hleaf
    exact ⟨⟨by simp [leafOfSupersection], fun _ => rfl, leafPxn_supported⟩, fun h => absurd rfl h⟩
  | l2LargePage d =>
    obtain rfl := Option.some.inj hleaf
    exact ⟨⟨by simp [leafOfLargePage], nofun, leafPxn_supported⟩, fun _ => blockAddr_lt d.base s.req.va rfl⟩
  | l2SmallPage d =>
    obtain rfl := Option.some.inj hleaf
    exact ⟨⟨by simp [leafOfSmallPage], nofun, leafPxn_supported⟩, fun _ => blockAddr_lt d.base s.req.va rfl⟩

theorem clearLowBits_lt {x : PhysAddr} {n : Nat} (k : Nat) (h : x.toNat < n) : ((x >>> k) <<< k).toNat < n := by
  rw [shiftRight_shiftLeft_toNat]
  exact (Nat.div_mul_le_self _ _).trans_lt h

/-- The low bits of a virtual address lead out of the 32-bit space as little as the leaf does. -/
theorem Leaf.Wf.withLowBits {cfg : Config} {l : Leaf} (h : l.Wf cfg) (k : Nat) (va : Word) :
    (l.withLowBits k va).Wf cfg where
  attrs := h.attrs
  pa_32 hsize := by
    have hlow : ((va.setWidth k).setWidth 40).toNat < 2 ^ 32 := by
      rw [BitVec.toNat_setWidth, BitVec.toNat_setWidth]
      exact ((Nat.mod_le _ _).trans (Nat.mod_le _ _)).trans_lt va.isLt
    rw [Leaf.withLowBits, BitVec.toNat_or]
    exact Nat.or_lt_two_pow (clearLowBits_lt k (h.pa_32 hsize)) hlow

theorem tlbEntryOf_wf {cfg : Config} {l : Leaf} (h : l.Wf cfg) (va : Word) : (tlbEntryOf va l).Wf cfg where
  leaf := ⟨h.attrs, fun hsize => clearLowBits_lt _ (h.pa_32 hsize)⟩
  va_base := TlbEntry.covers_iff.mpr (clearLowBits_twice va _)
  pa_base := clearLowBits_twice l.pa _

/-! ### Answers of steps 4 to 6 -/

/-- What steps 4 to 6 answer from a leaf that a descriptor can give has the shape that R170 and R48 say. -/
theorem checked_wf {s : State} {l : Leaf} {r : Response} (hl : l.Wf s.cfg) (h : s.checked l = .responds r) : r.Wf s.cfg := by
  rw [State.checked] at h
  obtain ⟨-, e⟩ | ⟨-, -, e⟩ | ⟨-, -, e⟩ | ⟨-, -, e⟩ | ⟨-, -, -, e⟩ | ⟨-, -, -, e⟩ | ⟨-, -, -, e⟩ :=
    checkLeaf_cases s.regs s.req s.secure l <;> cases e.symm.trans h
  · exact rfl
  · exact rfl
  · exact ⟨hl.attrs, hl.pa_32⟩
  · exact rfl
  · exact ⟨hl.attrs, hl.pa_32⟩

/-- A Non-secure request gets addresses of the Non-secure map (R108). -/
def State.NonsecureMap (s : State) (r : Response) : Prop :=
  ∀ pa ns attrs, r = .ok pa ns attrs → s.secure = false → ns = true

theorem nonsecureMap_fault (s : State) (kind : FaultKind) (level : Level) (domain : Option (BitVec 4)) :
    s.NonsecureMap (.fault kind level domain) := by
  intro _ _ _ h
  cases h

theorem checked_nonsecureMap {s : State} {l : Leaf} {r : Response} (h : s.checked l = .responds r) : s.NonsecureMap r := by
  rintro pa ns attrs rfl hsecure
  obtain ⟨-, rfl, -, -⟩ := checked_ok h
  rw [hsecure]
  rfl

/-! ### The invariant is kept by what a step is made of -/

theorem State.Inv.answer {s : State} (h : s.Inv) {r : Response} (hr : r.Wf s.cfg) (hns : s.NonsecureMap r) :
    (s.answer r).Inv where
  memS_wf := h.memS_wf
  memNS_wf := h.memNS_wf
  tlb_wf := h.tlb_wf
  tlb_nodup := h.tlb_nodup
  tlb_static := h.tlb_static
  pending hbusy := absurd rfl hbusy
  answer_wf _ hr' := Option.some.inj hr' ▸ hr
  nonsecure_map pa ns attrs hr' hsecure := hns pa ns attrs (Option.some.inj hr') (State.answer_secure s r ▸ hsecure)

theorem State.Inv.keep {s : State} (h : s.Inv) {l : Leaf} (hl : l.Wf s.cfg) : (s.keep l).Inv := by
  obtain hk | ⟨hmodel, hnew, hk⟩ := s.keep_cases l
  · rwa [hk]
  · rw [hk]
    exact {
      memS_wf := h.memS_wf
      memNS_wf := h.memNS_wf
      tlb_wf := List.forall_mem_cons.mpr ⟨tlbEntryOf_wf hl s.req.va, h.tlb_wf⟩
      tlb_nodup := List.nodup_cons.mpr ⟨hnew, h.tlb_nodup⟩
      tlb_static := fun hstatic => by cases hmodel.symm.trans hstatic
      pending := h.pending
      answer_wf := h.answer_wf
      nonsecure_map := h.nonsecure_map }

theorem State.Inv.countChoice {s : State} (h : s.Inv) : s.countChoice.Inv where
  memS_wf := by rw [State.countChoice_memS]; exact h.memS_wf
  memNS_wf := by rw [State.countChoice_memNS]; exact h.memNS_wf
  tlb_wf := by rw [State.countChoice_tlb, State.countChoice_cfg]; exact h.tlb_wf
  tlb_nodup := by rw [State.countChoice_tlb]; exact h.tlb_nodup
  tlb_static := by rw [State.countChoice_tlb, State.countChoice_cfg]; exact h.tlb_static
  pending := by rw [State.countChoice_walk, State.countChoice_result]; exact h.pending
  answer_wf := by rw [State.countChoice_result, State.countChoice_cfg]; exact h.answer_wf
  nonsecure_map := by rw [State.countChoice_result, State.countChoice_secure]; exact h.nonsecure_map

theorem State.Inv.goDown {s : State} (h : s.Inv) (hbusy : s.walk ≠ .idle) (p : PageTableDesc) :
    ({ s with parent := p, walk := .second } : State).Inv where
  memS_wf := h.memS_wf
  memNS_wf := h.memNS_wf
  tlb_wf := h.tlb_wf
  tlb_nodup := h.tlb_nodup
  tlb_static := h.tlb_static
  pending _ := h.pending hbusy
  answer_wf := h.answer_wf
  nonsecure_map := h.nonsecure_map

theorem State.Inv.present {s : State} (h : s.Inv) (req : Request) : (s.present req).Inv where
  memS_wf := h.memS_wf
  memNS_wf := h.memNS_wf
  tlb_wf := h.tlb_wf
  tlb_nodup := h.tlb_nodup
  tlb_static := h.tlb_static
  pending _ := rfl
  answer_wf r hr := by simp at hr
  nonsecure_map pa ns attrs hr := by simp at hr

theorem runDescriptor_keeps_inv {lvl : Level} {s t : State} (hinv : s.Inv) (hbusy : s.walk ≠ .idle)
    (h : runDescriptor lvl s = .next t) : t.Inv := by
  obtain ⟨-, _, d, -, -, rfl⟩ | ⟨_, _, _, hwf, rfl⟩ | ⟨_, _, l, r, -, -, hleaf, -, hchecked, rfl⟩ := runDescriptor_effect h
  · exact hinv.goDown hbusy d
  · exact hinv.answer hwf (nonsecureMap_fault s _ _ _)
  · have hl := mappedLeaf_wf hleaf
    rw [← State.keep_checked s l l] at hchecked
    have hl' : l.Wf (s.keep l).cfg := by rwa [State.keep_cfg]
    exact (hinv.keep hl).answer (checked_wf hl' hchecked) (checked_nonsecureMap hchecked)

/-- Settles O46, by what a step can do. -/
theorem stepKeepsTheInvariant : Obligations.StepKeepsTheInvariant := by
  intro s t hinv h
  obtain ⟨-, rfl⟩ | ⟨hwalk, hrun⟩ | ⟨-, e, hpick, hkept⟩ | ⟨hwalk, -, hrun⟩ := step_next h
  · exact hinv
  · exact runDescriptor_keeps_inv hinv (by rw [hwalk]; decide) hrun
  · obtain ⟨r, hchecked, rfl⟩ := useKept_next hkept
    obtain ⟨-, hmem, -⟩ := tlbPick_some hpick
    have hleaf : (e.leafFor s.countChoice.req.va).Wf s.countChoice.cfg := by
      rw [State.countChoice_cfg]
      exact (hinv.tlb_wf e hmem).leaf.withLowBits _ _
    exact hinv.countChoice.answer (checked_wf hleaf hchecked) (checked_nonsecureMap hchecked)
  · exact runDescriptor_keeps_inv hinv.countChoice (by rw [State.countChoice_walk, hwalk]; decide) hrun

/-- At reset nothing is in memory or kept, and nothing is answered. -/
theorem reset_inv : State.reset.Inv where
  memS_wf := reset_memory_wf.1
  memNS_wf := reset_memory_wf.2
  tlb_wf e he := by simp at he
  tlb_nodup := by simp
  tlb_static _ := State.reset_tlb
  pending _ := State.reset_result
  answer_wf r hr := by simp at hr
  nonsecure_map pa ns attrs hr := by simp at hr

/-- Settles O47. -/
theorem invariantHoldsAtReset : Obligations.InvariantHoldsAtReset :=
  ⟨reset_inv, fun _ req h => h.present req⟩

end Sys2Proof.Machine

/-! PROOFS. Software that has met its obligations is never refused (70_reset_and_hazards.md section 2, 30_encoding.md section 5;
R57, R66, R73, R76, R201). -/

namespace Sys2Proof.Machine

/-! ### Leaves that steps 4 to 6 do not refuse -/

/-- The one reserved AP value is the only one that the permission check refuses (R76, R142). -/
theorem checkPermission_ne_reserved {r : ControlRegs} {a : Attrs} (h : apAllowed r a.ap) (kind : AccessKind)
    (pl : PrivLevel) : checkPermission r a kind pl ≠ .reserved := by
  have hrights : ∃ rights, perms (sctlrAfe r) a.ap (privileged pl) = some rights := by
    cases hafe : sctlrAfe r with
    | true => exact ⟨_, perms_simplified_lists pl a.ap⟩
    | false =>
      obtain hafe' | hap := h
      · cases hafe.symm.trans hafe'
      · exact ⟨_, perms_full_lists pl a.ap hap⟩
  obtain ⟨rights, hrights⟩ := hrights
  obtain ⟨hread, hwrite, hexecute⟩ := checkPermission_of_rights hrights
  cases kind with
  | read => rw [hread]; split <;> nofun
  | write => rw [hwrite]; split <;> nofun
  | execute => rw [hexecute]; split <;> nofun

/-- Steps 4 to 6 give an answer where no domain is Reserved and the leaf's AP value is not. -/
theorem checked_responds {s : State} {l : Leaf} (hdomains : ∀ n, checkDomain s.regs n ≠ .reserved)
    (hap : apAllowed s.regs l.attrs.ap) : ∃ r, s.checked l = .responds r := by
  rw [State.checked]
  obtain ⟨-, e⟩ | ⟨-, -, e⟩ | ⟨-, hdom, -⟩ | ⟨-, -, e⟩ | ⟨-, -, hperm, -⟩ | ⟨-, -, -, e⟩ | ⟨-, -, -, e⟩ :=
    checkLeaf_cases s.regs s.req s.secure l
  · exact ⟨_, e⟩
  · exact ⟨_, e⟩
  · exact absurd hdom (hdomains _)
  · exact ⟨_, e⟩
  · exact absurd hperm (checkPermission_ne_reserved hap _ _)
  · exact ⟨_, e⟩
  · exact ⟨_, e⟩

/-! ### Descriptors that are fit for use -/

/-- What steps 1 to 3 yield from a descriptor that is fit for use: a leaf with no Reserved AP value, or an answer. -/
def State.Usable (s : State) : WalkResult → Prop
  | .leaf l => apAllowed s.regs l.attrs.ap
  | .stop t => ∃ r, t = .responds r

/-- A first-level descriptor that is fit for use leads to a second level that is, or is usable itself. -/
theorem firstLevelSetup_usable {s : State} {d1 : Word} {i : Instr} (hsetup : firstLevelSetup s s.req.va)
    (hread : s.walkRead (l1DescAddr s.regs s.req.va) = some d1) (hdecode : decodeFirst s.cfg d1 = .ok i) :
    (∃ p, i = .l1PageTable p ∧ secondLevelSetup s p s.req.va) ∨ ∃ r, descriptorYields s i = some r ∧ s.Usable r := by
  have hfit := hsetup d1 hread
  rw [hdecode] at hfit
  obtain ⟨hencode, hlevel, -⟩ := encode_of_decodeFirst hdecode
  cases i with
  | l2Fault ign | l2LargePage d | l2SmallPage d => cases hlevel
  | l1Fault ign => exact .inr ⟨_, rfl, _, rfl⟩
  | l1PageTable p => exact .inl ⟨p, rfl, hfit⟩
  | l1Section d => exact .inr ⟨_, rfl, hfit⟩
  | l1Supersection d =>
    obtain ⟨hap, hgood⟩ := hfit
    refine .inr ⟨.leaf (leafOfSupersection s.cfg d s.req.va), ?_, hap⟩
    simp only [descriptorYields, hencode, hgood]
    rfl

/-- A second-level descriptor that is fit for use is usable below its parent. -/
theorem secondLevelSetup_usable {s : State} {d2 : Word} (hsetup : secondLevelSetup s s.parent s.req.va)
    (hread : s.walkRead (l2DescAddr s.parent s.req.va) = some d2) :
    ∃ r, descriptorYields s (decodeSecond d2) = some r ∧ s.Usable r := by
  have hfit := hsetup d2 hread
  have hencode := encode_decodeSecond d2
  have hlevel := decodeSecond_level d2
  cases hi : decodeSecond d2 with
  | l1Fault ign | l1PageTable d | l1Section d | l1Supersection d => rw [hi] at hlevel; cases hlevel
  | l2Fault ign => exact ⟨_, rfl, _, rfl⟩
  | l2LargePage d =>
    rw [hi] at hfit hencode
    obtain ⟨hparent, hpage, hgood, hap⟩ := hfit
    refine ⟨.leaf (leafOfLargePage s.cfg s.parent d s.req.va), ?_, hap⟩
    simp only [descriptorYields, hparent, hpage, hencode, hgood]
    rfl
  | l2SmallPage d =>
    rw [hi] at hfit
    obtain ⟨hparent, hap⟩ := hfit
    refine ⟨.leaf (leafOfSmallPage s.cfg s.parent d s.req.va), ?_, hap⟩
    simp only [descriptorYields, hparent]
    rfl

/-! ### The obligations after a step -/

/-- The obligations about the tables read the parameters, the registers and the map of the walk. -/
theorem secondLevelSetup_congr {s t : State} (hcfg : t.cfg = s.cfg) (hregs : t.regs = s.regs)
    (hread : t.walkRead = s.walkRead) {p : PageTableDesc} {va : Word} (h : secondLevelSetup s p va) :
    secondLevelSetup t p va := by
  have hrep := repetitionBad_congr hcfg hread
  intro d2 hd2
  rw [hread] at hd2
  rw [hcfg, hregs, hrep]
  exact h d2 hd2

theorem firstLevelSetup_congr {s t : State} (hcfg : t.cfg = s.cfg) (hregs : t.regs = s.regs)
    (hread : t.walkRead = s.walkRead) {va : Word} (h : firstLevelSetup s va) : firstLevelSetup t va := by
  have hrep := repetitionBad_congr hcfg hread
  intro d1 hd1
  rw [hread, hregs] at hd1
  have hfit := h d1 hd1
  rw [hcfg, hregs, hrep]
  cases hdecode : decodeFirst s.cfg d1 with
  | error e => rw [hdecode] at hfit; exact hfit
  | ok i =>
    rw [hdecode] at hfit
    cases i with
    | l1PageTable p => exact secondLevelSetup_congr hcfg hregs hread hfit
    | l1Fault _ | l1Section _ | l1Supersection _ | l2Fault _ | l2LargePage _ | l2SmallPage _ => exact hfit

/-- The obligations stand in a state with the same inputs, once they stand for what is kept and in progress there. -/
theorem State.Setup.transfer {s t : State} (h : s.Setup) (hcfg : t.cfg = s.cfg) (hregs : t.regs = s.regs)
    (hread : t.walkRead = s.walkRead) (hkept : ∀ e ∈ t.tlb, e ∈ s.tlb ∨ apAllowed s.regs e.leaf.attrs.ap)
    (hwalk : t.walk = .second → secondLevelSetup s t.parent t.req.va) : t.Setup where
  domains := hregs ▸ h.domains
  tables va := firstLevelSetup_congr hcfg hregs hread (h.tables va)
  kept e he := by
    rw [hregs]
    exact (hkept e he).elim (h.kept e) id
  in_walk hsecond := secondLevelSetup_congr hcfg hregs hread (hwalk hsecond)

theorem State.Setup.countChoice {s : State} (h : s.Setup) : s.countChoice.Setup := by
  have hframe := Frame.countChoice s
  refine h.transfer hframe.cfg hframe.regs hframe.sameWalk.walkRead (fun e he => .inl (by simpa using he)) ?_
  rw [State.countChoice_walk, State.countChoice_parent, State.countChoice_req]
  exact h.in_walk

theorem State.Setup.answer {s : State} (h : s.Setup) (r : Response) : (s.answer r).Setup :=
  h.transfer rfl rfl rfl (fun _ he => .inl he) nofun

/-- A usable leaf may be kept. -/
theorem State.Setup.keep {s : State} (h : s.Setup) {l : Leaf} (hap : apAllowed s.regs l.attrs.ap) : (s.keep l).Setup := by
  have hframe := Frame.keep s l
  refine h.transfer hframe.cfg hframe.regs hframe.sameWalk.walkRead (fun e he => ?_) ?_
  · refine (State.mem_keep_tlb s l e he).imp_right ?_
    rintro rfl
    exact hap
  · rw [State.keep_walk, State.keep_parent, State.keep_req]
    exact h.in_walk

/-- A new request of the same security state is served from the same tables. -/
theorem State.Setup.present {s : State} (h : s.Setup) {req : Request} (hsecure : req.secure = s.req.secure) :
    (s.present req).Setup := by
  have hs : (s.present req).secure = s.secure := by simp [State.secure, hsecure]
  have hmem : (s.present req).walkMem = s.walkMem := by simp [State.walkMem, hs]
  refine h.transfer rfl (by simp [State.regs, hs]) ?_ (fun _ he => .inl he) nofun
  exact funext fun a => walkRead_congr rfl fun _ _ => by rw [hmem]

/-- What is usable ends the translation with an answer. -/
theorem finish_of_usable {s : State} {r : WalkResult} (h : s.Setup) (husable : s.Usable r) :
    ∃ t, s.finish r = .next t ∧ t.Setup := by
  cases r with
  | stop x =>
    obtain ⟨r, rfl⟩ := husable
    exact ⟨_, rfl, h.answer r⟩
  | leaf l =>
    obtain ⟨r, hr⟩ := checked_responds h.domains husable
    refine ⟨(s.keep l).answer r, ?_, (h.keep husable).answer r⟩
    rw [State.finish, State.useLeaf, hr]
    rfl

theorem runDescriptor_first_of_setup {s : State} (h : s.Setup) (hwalk : s.walk = .first) :
    ∃ t, runDescriptor .first s = .next t ∧ t.Setup := by
  cases hfetch : s.fetchWord with
  | none => exact ⟨_, runDescriptor_of_noData hfetch, h.answer _⟩
  | some d1 =>
    have hread := (fetchWord_first hwalk).symm.trans hfetch
    have hword : decodeWord s.cfg .first d1 = decodeFirst s.cfg d1 := rfl
    cases hdecode : decodeFirst s.cfg d1 with
    | error e =>
      have hparam := h.tables s.req.va d1 hread
      rw [hdecode] at hparam
      have hend : reservedEnd s.cfg = .responds (.fault .translation .first none) := by
        rw [reservedEnd, show s.cfg.l1Type3NoPxn = .translationFault from hparam]
      rw [runDescriptor_of_reserved hfetch (hword.trans hdecode), reservedType_eq, hend]
      exact ⟨_, rfl, h.answer _⟩
    | ok i =>
      rw [runDescriptor_of_decode hfetch (hword.trans hdecode)]
      obtain ⟨p, rfl, hbelow⟩ | ⟨r, hyields, husable⟩ := firstLevelSetup_usable (h.tables s.req.va) hread hdecode
      · exact ⟨_, rfl, h.transfer rfl rfl rfl (fun _ he => .inl he) fun _ => hbelow⟩
      · rw [exec_of_yields hyields]
        exact finish_of_usable h husable

theorem runDescriptor_second_of_setup {s : State} (h : s.Setup) (hwalk : s.walk = .second) :
    ∃ t, runDescriptor .second s = .next t ∧ t.Setup := by
  cases hfetch : s.fetchWord with
  | none => exact ⟨_, runDescriptor_of_noData hfetch, h.answer _⟩
  | some d2 =>
    obtain ⟨r, hyields, husable⟩ :=
      secondLevelSetup_usable (h.in_walk hwalk) ((fetchWord_second hwalk).symm.trans hfetch)
    rw [runDescriptor_of_decode hfetch rfl, exec_of_yields hyields]
    exact finish_of_usable h husable

theorem step_of_setup {s : State} (h : s.Setup) : ∃ t, step s = .next t ∧ t.Setup := by
  cases hwalk : s.walk with
  | idle => exact ⟨s, step_idle hwalk, h⟩
  | second =>
    rw [step_second hwalk]
    exact runDescriptor_second_of_setup h hwalk
  | first =>
    cases hpick : s.tlbPick with
    | some e =>
      obtain ⟨-, hmem, -⟩ := tlbPick_some hpick
      obtain ⟨r, hr⟩ := checked_responds (l := e.leafFor s.req.va) h.domains (h.kept e hmem)
      rw [step_first_kept hwalk hpick, hr]
      exact ⟨_, rfl, h.countChoice.answer r⟩
    | none =>
      rw [step_first_walks hwalk hpick]
      exact runDescriptor_first_of_setup h.countChoice ((State.countChoice_walk s).trans hwalk)

theorem core_run_succ {M : Host.Core} {s t : M.State} (h : M.step s = .next t) (k : Nat) :
    M.run (k + 1) s = M.run k t := by
  rw [Host.Core.run, h]

/-- Any number of steps answers a next state. -/
theorem run_of_setup (k : Nat) : ∀ {s : State}, s.Setup → ∃ t : State, Sys2Proof.core.run k s = .next t := by
  induction k with
  | zero => exact fun {s} _ => ⟨s, rfl⟩
  | succ k ih =>
    intro s h
    obtain ⟨t, hstep, ht⟩ := step_of_setup h
    obtain ⟨u, hu⟩ := ih ht
    exact ⟨u, (core_run_succ (M := Sys2Proof.core) hstep k).trans hu⟩

/-- Settles O52. -/
theorem obligedSoftwareIsNeverRefused : Obligations.ObligedSoftwareIsNeverRefused := by
  intro s h
  exact ⟨step_of_setup h, fun _ hsecure => h.present hsecure, fun k => run_of_setup k h⟩

end Sys2Proof.Machine
